-- ==== Sys2Proof/Word.lean ====
section
/-! DEFINITION. The plain vocabulary of the engine: characters, text and the six errors of `execute`.
A magnitude (00_scope.md R12: an integer in `[0, 2^WIDTH - 1]`) is a `Nat`, because `WIDTH` is data of the
instance and all arithmetic of the spec is on mathematical integers (log entry 12). -/

namespace Sys2Proof

/-- One character of an instruction line, taken as an 8-bit byte (30_encoding.md R70: a model may take
bytes or Unicode scalars, no rule depends on which; log entry 8). -/
abbrev Byte := BitVec 8

/-- Text: a line, a token, a rendering of a dump. -/
abbrev Text := List Byte

/-- One operand token after comma stripping (30_encoding.md R75, R96), or a token as split (R71). -/
abbrev Token := List Byte

/-- The closed set of errors that `execute` returns (60_exceptions.md R230). None is a fault of the machine:
each is an ordinary result with no change of state (R240). -/
inductive ExecutionError where
  /-- The line has no tokens (R231). -/
  | emptyInstruction
  /-- Token 0 is none of the 13 mnemonics (R232). -/
  | unknownInstruction
  /-- A destination that is no register key, or a source that begins like a register name and is no key (R233). -/
  | unknownRegister
  /-- A source that is no literal, or a wrong number of operand tokens (R234). -/
  | invalidOperand
  /-- `DIV` with a zero divisor (R235). -/
  | divisionByZero
  /-- A `LOAD` or `STORE` address at or above `MEMSIZE` (R236). -/
  | memoryOutOfBounds
  deriving DecidableEq, Repr

end Sys2Proof
end

