-- ==== Sys2Proof/Syntax.lean ====
section
/-! DEFINITION. The decoded instruction `(op, t1, t2)` of 30_encoding.md R96: one constructor per row of
spec/opcode_table.json. An operand stays the token the decoder yields, trailing commas removed: which tokens name
a register depends on the instance (10_state.md R23), so the operand resolver reads them, not the decoder (R96). -/

namespace Sys2Proof

/-- The 13 instructions (30_encoding.md R95). `d` is a destination token (R80), `s` and `v` are source tokens
and `m` an address token (R85). -/
inductive Instr where
  /-- `MOV d s`, format `DS`, tag 0 (41_execute_and_move.md R150). -/
  | mov (d s : Token)
  /-- `ADD d s`, format `DS`, tag 1 (42_arithmetic.md R160). -/
  | add (d s : Token)
  /-- `SUB d s`, format `DS`, tag 2 (42_arithmetic.md R161). -/
  | sub (d s : Token)
  /-- `MUL d s`, format `DS`, tag 3 (42_arithmetic.md R162). -/
  | mul (d s : Token)
  /-- `DIV d s`, format `DS`, tag 4 (42_arithmetic.md R163). -/
  | div (d s : Token)
  /-- `AND d s`, format `DS`, tag 5 (43_logic.md R180). -/
  | and (d s : Token)
  /-- `OR d s`, format `DS`, tag 6 (43_logic.md R181). -/
  | or (d s : Token)
  /-- `XOR d s`, format `DS`, tag 7 (43_logic.md R182). -/
  | xor (d s : Token)
  /-- `NOT d`, format `D`, tag 8 (43_logic.md R183). -/
  | not (d : Token)
  /-- `SHL d s`, format `DS`, tag 9 (44_shift.md R200). -/
  | shl (d s : Token)
  /-- `SHR d s`, format `DS`, tag 10 (44_shift.md R201). -/
  | shr (d s : Token)
  /-- `LOAD d m`, format `LD`, tag 11 (45_memory_ops.md R210). -/
  | load (d m : Token)
  /-- `STORE v m`, format `ST`, tag 12 (45_memory_ops.md R211). -/
  | store (v m : Token)
  deriving DecidableEq, Repr

end Sys2Proof
end

