-- ==== Sys2Proof/Decode.lean ====
section
/-! DEFINITION. The decoder (30_encoding.md R70 to R79, R95 to R98): one line of text to a decoded instruction
or one of the three errors the decoder finds, a pure function of the line. After it the encoder, which writes the
canonical spelling of R99, and the host's numbering of the opcode table. -/

namespace Sys2Proof

/-- SPACE, 0x20. -/
abbrev spaceByte : Byte := 0x20

/-- The comma, 0x2C (30_encoding.md R75). -/
abbrev commaByte : Byte := 0x2C

/-- The six whitespace characters (30_encoding.md R71): TAB, LF, VT, FF, CR, SPACE. -/
def isSpace (b : Byte) : Bool :=
  b == 0x09 || b == 0x0A || b == 0x0B || b == 0x0C || b == 0x0D || b == 0x20

/-- Put a run of characters before a list of tokens, unless it is empty: there are no empty tokens (R71). -/
def consToken (run : Token) (rest : List Token) : List Token :=
  if run.isEmpty then rest else run :: rest

/-- The run of token characters a text begins with, and the tokens of what follows it. -/
def splitRun : Text → Token × List Token
  | [] => ([], [])
  | b :: bs =>
    let p := splitRun bs
    if isSpace b then ([], consToken p.1 p.2) else (b :: p.1, p.2)

/-- The maximal runs of non-whitespace characters, in order (30_encoding.md R71). -/
def tokens (line : Text) : List Token :=
  let p := splitRun line
  consToken p.1 p.2

/-- ASCII case folding of one character (00_scope.md, `upper`): only `a`..`z` change. -/
def upperByte (b : Byte) : Byte :=
  if 0x61 ≤ b ∧ b ≤ 0x7A then b - 0x20 else b

/-- `upper` of 00_scope.md section 6. -/
def upper (t : Token) : Token := t.map upperByte

/-- Remove every comma at the end of an operand token (30_encoding.md R75). -/
def stripCommas : Token → Token
  | [] => []
  | b :: bs =>
    let r := stripCommas bs
    if r.isEmpty && b == commaByte then [] else b :: r

/-- The closed enumeration of operations (30_encoding.md R74, R95). -/
inductive Op where
  | mov | add | sub | mul | div | and | or | xor | not | shl | shr | load | store
  deriving DecidableEq, Repr

/-- The operations in the order of the tags 0 to 12 (30_encoding.md R95). -/
def Op.all : List Op :=
  [.mov, .add, .sub, .mul, .div, .and, .or, .xor, .not, .shl, .shr, .load, .store]

/-- The tag of an operation (30_encoding.md R95; never visible to a program). -/
def Op.tag : Op → Nat
  | .mov => 0 | .add => 1 | .sub => 2 | .mul => 3 | .div => 4 | .and => 5 | .or => 6
  | .xor => 7 | .not => 8 | .shl => 9 | .shr => 10 | .load => 11 | .store => 12

/-- The ASCII bytes of the mnemonic (30_encoding.md R95, the table). -/
def Op.mnemonic : Op → Text
  | .mov => [0x4D, 0x4F, 0x56]
  | .add => [0x41, 0x44, 0x44]
  | .sub => [0x53, 0x55, 0x42]
  | .mul => [0x4D, 0x55, 0x4C]
  | .div => [0x44, 0x49, 0x56]
  | .and => [0x41, 0x4E, 0x44]
  | .or => [0x4F, 0x52]
  | .xor => [0x58, 0x4F, 0x52]
  | .not => [0x4E, 0x4F, 0x54]
  | .shl => [0x53, 0x48, 0x4C]
  | .shr => [0x53, 0x48, 0x52]
  | .load => [0x4C, 0x4F, 0x41, 0x44]
  | .store => [0x53, 0x54, 0x4F, 0x52, 0x45]

/-- The operand count of the operation's format (30_encoding.md R78, R79). -/
def Op.operandCount : Op → Nat
  | .not => 1
  | .mov | .add | .sub | .mul | .div | .and | .or | .xor | .shl | .shr | .load | .store => 2

/-- Opcode selection: the folded token 0 equals a mnemonic in full (30_encoding.md R73). -/
def selectOp (t0 : Token) : Option Op :=
  Op.all.find? fun op => op.mnemonic == upper t0

/-- A format with one operand token (`D`). -/
def oneOperand (f : Token → Instr) : List Token → Option Instr
  | [d] => some (f d)
  | _ => none

/-- A format with two operand tokens (`DS`, `LD`, `ST`). -/
def twoOperands (f : Token → Token → Instr) : List Token → Option Instr
  | [a, b] => some (f a b)
  | _ => none

/-- The decoded instruction of an operation and its stripped operand tokens; nothing when the number of
tokens is not the format's (30_encoding.md R79). -/
def assemble (op : Op) (ts : List Token) : Option Instr :=
  match op with
  | .mov => twoOperands .mov ts
  | .add => twoOperands .add ts
  | .sub => twoOperands .sub ts
  | .mul => twoOperands .mul ts
  | .div => twoOperands .div ts
  | .and => twoOperands .and ts
  | .or => twoOperands .or ts
  | .xor => twoOperands .xor ts
  | .not => oneOperand .not ts
  | .shl => twoOperands .shl ts
  | .shr => twoOperands .shr ts
  | .load => twoOperands .load ts
  | .store => twoOperands .store ts

/-- The decoder: steps 1 to 5 of 41_execute_and_move.md R140, total on every text (30_encoding.md R97). -/
def decode (line : Text) : Except ExecutionError Instr :=
  match tokens line with
  | [] => .error .emptyInstruction
  | t0 :: ts =>
    match selectOp t0 with
    | none => .error .unknownInstruction
    | some op =>
      match assemble op (ts.map stripCommas) with
      | none => .error .invalidOperand
      | some i => .ok i

/-! ### The encoder -/

/-- The operation of an instruction. -/
def Instr.op : Instr → Op
  | .mov _ _ => .mov | .add _ _ => .add | .sub _ _ => .sub | .mul _ _ => .mul | .div _ _ => .div
  | .and _ _ => .and | .or _ _ => .or | .xor _ _ => .xor | .not _ => .not
  | .shl _ _ => .shl | .shr _ _ => .shr | .load _ _ => .load | .store _ _ => .store

/-- The operand tokens of an instruction, first operand first. -/
def Instr.operands : Instr → List Token
  | .mov d s | .add d s | .sub d s | .mul d s | .div d s | .and d s | .or d s | .xor d s => [d, s]
  | .not d => [d]
  | .shl d s | .shr d s => [d, s]
  | .load d m => [d, m]
  | .store v m => [v, m]

/-- The spelling of one operand token: the token itself; the empty token, which no run of characters spells, is
written as the lone comma that strips to it (30_encoding.md R75; log entry 26). -/
def encodeToken (t : Token) : Text :=
  if t.isEmpty then [commaByte] else t

/-- Operand tokens, each after one space. -/
def encodeOperands : List Token → Text
  | [] => []
  | t :: ts => spaceByte :: (encodeToken t ++ encodeOperands ts)

/-- The canonical line of a well-formed instruction (30_encoding.md R99): uppercase mnemonic, one space before
each operand. -/
def encode (i : Instr) : Text := i.op.mnemonic ++ encodeOperands i.operands

/-! ### The opcode table's numbering -/

/-- The characters of a numeral of `n` bytes, first character most significant: 30_encoding.md R95 writes a
row's `match` as "one hexadecimal numeral, first character first" (`MOV` is 0x4D4F56). -/
def numeralBytes : Nat → Nat → Text
  | 0, _ => []
  | n + 1, w => numeralBytes n (w / 256) ++ [BitVec.ofNat 8 w]

/-- The operand text put after a table row's word, which holds token 0 only: the first register `R1` and the
literal `0`, as many as the format asks for (log entry 9). -/
def zeroOperands : Nat → Text
  | 0 => []
  | 1 => [0x20, 0x52, 0x31]
  | _ + 2 => [0x20, 0x52, 0x31, 0x20, 0x30]

/-- The whole line that stands for a table row's word of `nbits` bits. -/
def tableLine (nbits w : Nat) : Text :=
  let word := numeralBytes (nbits / 8) w
  match selectOp word with
  | none => word
  | some op => word ++ zeroOperands op.operandCount

/-- The instruction the decoder reads from a table row's word. -/
def decodeTableWord (nbits w : Nat) : Option Instr :=
  match decode (tableLine nbits w) with
  | .ok i => some i
  | .error _ => none

end Sys2Proof
end

