-- ==== Sys2Proof/Machine/Alu.lean ====
section
/-! DEFINITION. The Word Arithmetic Layer (40_alu_primitives.md R110 to R122): pure functions of magnitudes and of
the width, one rule for every width (R122). Magnitudes and raw values are mathematical integers; truncation happens
only where the rule masks. -/

namespace Sys2Proof.Machine.Alu

/-- `mask(w)` (R111). -/
def mask (w : Nat) : Nat := 2 ^ w - 1

/-- `to_unsigned_masked(raw, w)` (R111): `raw mod 2^w`, for any integer `raw`. -/
def toUnsignedMasked (raw : Int) (w : Nat) : Nat := (raw % ((2 ^ w : Nat) : Int)).toNat

/-- `to_signed(m, w)` (R112): the two's-complement decode of a magnitude. -/
def toSigned (m w : Nat) : Int :=
  if m.testBit (w - 1) then (m : Int) - ((2 ^ w : Nat) : Int) else (m : Int)

/-- `add(a, b, w)`: the masked sum and the carry out (R114). -/
def add (a b w : Nat) : Nat × Bool :=
  (toUnsignedMasked ((a : Int) + (b : Int)) w, decide (2 ^ w ≤ a + b))

/-- `sub(a, b, w)`: the masked difference and the borrow (R115). -/
def sub (a b w : Nat) : Nat × Bool :=
  (toUnsignedMasked ((a : Int) - (b : Int)) w, decide (a < b))

/-- `mul(a, b, w)`: the low `w` bits of the product (R116). -/
def mul (a b w : Nat) : Nat := toUnsignedMasked ((a : Int) * (b : Int)) w

/-- `div(a, b)`: the unsigned quotient (R117). Never called with `b = 0`: the engine raises `DivisionByZero` first
(42_arithmetic.md R163), so what the total `Nat` division says there is never reached. -/
def div (a b : Nat) : Nat := a / b

/-- `bitwise`, AND (R118). -/
def and (a b : Nat) : Nat := a &&& b

/-- `bitwise`, OR (R118). -/
def or (a b : Nat) : Nat := a ||| b

/-- `bitwise`, XOR (R118). -/
def xor (a b : Nat) : Nat := a ^^^ b

/-- `bitwise`, NOT within `w` bits (R119). -/
def not (a w : Nat) : Nat := mask w - a

/-- `shift_left(a, amount, w)` (R120): the whole amount counts, `w` or more gives 0. -/
def shiftLeft (a amount w : Nat) : Nat :=
  if w ≤ amount then 0 else toUnsignedMasked ((a * 2 ^ amount : Nat) : Int) w

/-- `shift_right(a, amount, w)`, logical (R121). -/
def shiftRight (a amount w : Nat) : Nat :=
  if w ≤ amount then 0 else a / 2 ^ amount

end Sys2Proof.Machine.Alu
end

