-- ==== Sys2Proof/Config.lean ====
section
/-! DEFINITION. The configuration of one instance (00_scope.md R5 to R8): three numbers fixed at construction.
The spec leaves no free value, so there is no opaque constant here; a state carries its configuration as data
(log entry 1) and every rule is stated for every configuration. -/

namespace Sys2Proof

/-- `WIDTH`, `NREGS`, `MEMSIZE` (00_scope.md R5, R6, R7), none with an upper bound. -/
structure Config where
  /-- `WIDTH`, the word width in bits. -/
  width : Nat
  /-- `NREGS`, the number of general registers. -/
  nregs : Nat
  /-- `MEMSIZE`, the number of memory cells. -/
  memsize : Nat
  deriving DecidableEq, Repr

/-- The configurations an instance can have (70_reset_and_hazards.md R271, R272). -/
abbrev Config.wf (c : Config) : Bool := decide (1 ≤ c.width) && decide (1 ≤ c.nregs)

end Sys2Proof
end

