-- ==== Sys2Proof/Machine/State.lean ====
section
/-! DEFINITION. The state of one engine instance with its caller's side of the interface, and the state after
reset. The engine's own state is exactly 10_state.md R20: registers, flags, memory, program counter, and the
fixed configuration. `pending` and `reply` are the model's own fields (log entries 3 and 5). -/

namespace Sys2Proof.Machine

/-- The four flags (10_state.md R30). -/
structure Flags where
  /-- `F.ZERO` -/
  zero : Bool
  /-- `F.CARRY` -/
  carry : Bool
  /-- `F.OVERFLOW` -/
  overflow : Bool
  /-- `F.SIGN` -/
  sign : Bool
  deriving DecidableEq, Repr

/-- A listed memory cell: its index and the magnitude it holds (20_memory.md R50). A cell has `WIDTH` bits, not
eight, so the pair holds a magnitude where the host's own cell type holds a byte (log entry 7). -/
abbrev Cell := Nat × Nat

/-- Memory: the cells that differ from 0, by strictly rising index (log entry 7). -/
abbrev Memory := List Cell

/-- One register in a dump (10_state.md R45): its name, its magnitude, and the three renderings. -/
structure RegView where
  name : Text
  magnitude : Nat
  decimal : Text
  hex : Text
  binary : Text
  deriving DecidableEq, Repr

/-- What `dump` returns (10_state.md R45): program counter, registers in index order, flags; no memory (R41). -/
structure Snapshot where
  programCounter : Nat
  registers : List RegView
  flags : Flags
  deriving DecidableEq, Repr

/-- A transaction of the caller with a live instance (00_scope.md R9). -/
inductive Request where
  /-- `execute(line)` (41_execute_and_move.md R140). -/
  | execute (line : Text)
  /-- `dump()` (10_state.md R44). -/
  | dump
  deriving DecidableEq, Repr

/-- What a transaction hands back to the caller. -/
inductive Reply where
  /-- `Ok` of `execute` (41_execute_and_move.md R142). -/
  | ok
  /-- `Err(e)` of `execute` (60_exceptions.md R230). -/
  | err (e : ExecutionError)
  /-- The snapshot of `dump` (10_state.md R45). -/
  | snapshot (d : Snapshot)
  deriving DecidableEq, Repr

/-- One instance (10_state.md R20) and its caller's side. -/
structure State where
  /-- `WIDTH`, `NREGS`, `MEMSIZE`; no step changes them (log entry 1). -/
  cfg : Config
  /-- The register file (R22); register `x[i]`, `1 ≤ i ≤ NREGS`, stands at position `i - 1`. -/
  regs : List Nat
  /-- The flags (R30). -/
  flags : Flags
  /-- The memory (20_memory.md R50). -/
  mem : Memory
  /-- The program counter, inert (R27, R28). -/
  pc : Nat
  /-- The model's own: the caller's transactions not yet taken, the next one first (log entry 3). -/
  pending : List Request
  /-- The model's own: what the last transaction returned; no rule reads it (log entry 5). -/
  reply : Option Reply
  deriving DecidableEq, Repr

/-- Why a step could stop with a fault: never. The engine "never faults, is never stuck and never hangs"
(93_implementation_defined.md, under part 1; 60_exceptions.md R242), so the type has no constructor (log entry 31). -/
inductive Fault where
  deriving DecidableEq, Repr

/-- Why the model gives a step no meaning. -/
inductive Refusal where
  /-- The host's name for an instruction without a meaning. Raised by nobody: every instruction has one. Safe. -/
  | notModelled (mnemonic : String)
  /-- Raised by `step` in a state whose configuration has width 0 or no register: construction refuses it under this
  name and the spec gives such an instance no meaning (70_reset_and_hazards.md R271, R272; log entry 11). Safe. -/
  | invalidConfiguration
  deriving DecidableEq, Repr

/-- Why construction fails: not one of the six execution errors (70_reset_and_hazards.md R271). -/
inductive ConstructionError where
  /-- Width 0, register count 0, or both. -/
  | invalidConfiguration
  deriving DecidableEq, Repr

/-- All four flags false: the reset value (10_state.md R48). -/
def Flags.cleared : Flags := ⟨false, false, false, false⟩

/-- A new instance of a configuration, every piece of state at its reset value (10_state.md R48;
70_reset_and_hazards.md R270), with no transaction submitted yet. -/
def State.fresh (c : Config) : State where
  cfg := c
  regs := List.replicate c.nregs 0
  flags := Flags.cleared
  mem := []
  pc := 0
  pending := []
  reply := none

/-- The machine right after reset: `new(8, 8, 4)`, the width and register count of the source's examples and the
one memory size they give (95_test_vectors.md SE1 to SE6; log entry 2). -/
def State.reset : State := State.fresh ⟨8, 8, 4⟩

end Sys2Proof.Machine
end

