-- ==== Sys2Proof/Machine/Flags.lean ====
section
/-! DEFINITION. Flag derivation (40_alu_primitives.md R124 to R128) and the three ways an instruction writes the
flag set (10_state.md R34): not at all, ZERO and SIGN from a result, or all four from an addition or subtraction. -/

namespace Sys2Proof.Machine

/-- The sign bit of a `w`-bit word: bit `w - 1` (00_scope.md R11). -/
def signBit (w v : Nat) : Bool := v.testBit (w - 1)

/-- `ZERO` of a masked result (R124). -/
def zeroOf (result : Nat) : Bool := result == 0

/-- `SIGN` of a masked result (R128). -/
def signOf (w result : Nat) : Bool := signBit w result

/-- `OVERFLOW` after `ADD` (R127): the operands' signs agree and the result's differs. -/
def overflowAdd (w a b result : Nat) : Bool :=
  (signBit w a == signBit w b) && (signBit w result != signBit w a)

/-- `OVERFLOW` after `SUB` (R127): the operands' signs differ and the result's differs from the minuend's. -/
def overflowSub (w a b result : Nat) : Bool :=
  (signBit w a != signBit w b) && (signBit w result != signBit w a)

/-- ZERO and SIGN from the result, CARRY and OVERFLOW kept (10_state.md R34: `MUL DIV AND OR XOR NOT SHL SHR`). -/
def Flags.withResult (f : Flags) (w result : Nat) : Flags :=
  { f with zero := zeroOf result, sign := signOf w result }

/-- All four flags after `ADD` of magnitudes `a`, `b` (R124, R125, R127, R128). -/
def Flags.afterAdd (w a b : Nat) : Flags :=
  let r := Alu.add a b w
  { zero := zeroOf r.1, carry := r.2, overflow := overflowAdd w a b r.1, sign := signOf w r.1 }

/-- All four flags after `SUB` of magnitudes `a`, `b` (R124, R126, R127, R128). -/
def Flags.afterSub (w a b : Nat) : Flags :=
  let r := Alu.sub a b w
  { zero := zeroOf r.1, carry := r.2, overflow := overflowSub w a b r.1, sign := signOf w r.1 }

end Sys2Proof.Machine
end

