-- ==== Sys2Proof/Machine/Ops.lean ====
section
/-! DEFINITION. The named operations over registers, memory and the caller's side, and the one way an instruction
ends in an error (60_exceptions.md R240): everything as before the call, `Err(e)` returned. There is no return from
an error, because there is nothing to return from (R241). Construction stands here too (70_reset_and_hazards.md R270). -/

namespace Sys2Proof.Machine

/-! ### Memory -/

/-- Read one cell (20_memory.md R56). An unlisted cell reads 0: memory is "initialized to zero at construction" (R50). -/
def Memory.read : Memory → Nat → Nat
  | [], _ => 0
  | (k, v) :: rest, a => if k = a then v else Memory.read rest a

/-- Write one cell (20_memory.md R57), keeping the canonical form: a cell written with 0 is no longer listed. -/
def Memory.write : Memory → Nat → Nat → Memory
  | [], a, v => if v = 0 then [] else [(a, v)]
  | (k, w) :: rest, a, v =>
    if a < k then (if v = 0 then (k, w) :: rest else (a, v) :: (k, w) :: rest)
    else if a = k then (if v = 0 then rest else (a, v) :: rest)
    else (k, w) :: Memory.write rest a v

/-- The canonical form: indices strictly rising, no listed cell holds 0. -/
def Memory.wf : Memory → Bool
  | [] => true
  | (k, v) :: rest => v != 0 && rest.all (fun c => decide (k < c.1)) && Memory.wf rest

/-! ### Registers, flags, cells -/

/-- `x[i]`, `1 ≤ i ≤ NREGS` (00_scope.md section 6; 10_state.md R22; log entry 28 for other `i`). -/
def State.readReg (s : State) (i : Nat) : Nat := s.regs.getD (i - 1) 0

/-- `x[i] <- v` (00_scope.md section 6). -/
def State.writeReg (s : State) (i v : Nat) : State := { s with regs := s.regs.set (i - 1) v }

/-- Write the flag set. -/
def State.writeFlags (s : State) (f : Flags) : State := { s with flags := f }

/-- `MemRead(a, 1)` (20_memory.md R56). -/
def State.readCell (s : State) (a : Nat) : Nat := s.mem.read a

/-- `MemWrite(a, 1, v)` (20_memory.md R57). -/
def State.writeCell (s : State) (a v : Nat) : State := { s with mem := s.mem.write a v }

/-- The commit of an ALU instruction: the destination register and the flags change together
(41_execute_and_move.md R144; 10_state.md R36). -/
def State.commitResult (s : State) (dest result : Nat) (f : Flags) : State :=
  (s.writeReg dest result).writeFlags f

/-! ### The caller's side -/

/-- Hand a value back to the caller. -/
def State.answer (s : State) (r : Reply) : State := { s with reply := some r }

/-- `raise e`: end the `execute` transaction at once with `Err(e)` and no state written by this instruction
(60_exceptions.md R240). The only way any instruction of the engine reports an exception. -/
def State.raise (s : State) (e : ExecutionError) : State := s.answer (.err e)

/-- `return Ok` (41_execute_and_move.md R140 step 11). -/
def State.returnOk (s : State) : State := s.answer .ok

/-- Steps 6 to 11 of 41_execute_and_move.md R140, given what they come to: the state with all writes committed, or
the first error raised, which leaves `s` as it was. -/
def State.complete (s : State) (r : Except ExecutionError State) : Host.Outcome State Fault Refusal :=
  match r with
  | .error e => .next (s.raise e)
  | .ok t => .next t.returnOk

/-- The caller submits transactions, to be taken after those already pending (41_execute_and_move.md R146). -/
def State.submit (s : State) (rs : List Request) : State := { s with pending := s.pending ++ rs }

/-! ### Construction -/

/-- `new(width, register_count, memory_size)` (70_reset_and_hazards.md R270, R271): an instance at its reset values,
or the refusal when width or register count is 0. -/
def construct (width registerCount memorySize : Nat) : Except ConstructionError State :=
  let c : Config := ⟨width, registerCount, memorySize⟩
  if c.wf then .ok (State.fresh c) else .error .invalidConfiguration

/-! ### Numbers of the errors -/

/-- The code of an error (60_exceptions.md R237). -/
def errorCode : ExecutionError → Nat
  | .emptyInstruction => 1
  | .unknownInstruction => 2
  | .unknownRegister => 3
  | .invalidOperand => 4
  | .divisionByZero => 5
  | .memoryOutOfBounds => 6

/-- The code of a result of `execute`, `Ok` being 0 (60_exceptions.md R237); a dump's snapshot has none. -/
def Reply.code : Reply → Option Nat
  | .ok => some 0
  | .err e => some (errorCode e)
  | .snapshot _ => none

end Sys2Proof.Machine
end

