-- ==== Sys2Proof/Machine/Operands.lean ====
section
/-! DEFINITION. The operand resolver (30_encoding.md R80 to R91): literals, register keys, destinations, sources,
and the operands of each format. It reads the state as it was when `execute` was called and writes nothing (R90,
41_execute_and_move.md R143). -/

namespace Sys2Proof.Machine

/-! ### Literals -/

/-- The value of a digit character: `0`..`9`, `a`..`f`, `A`..`F` (30_encoding.md R86, R87). -/
def digitValue (b : Byte) : Option Nat :=
  if 0x30 ≤ b ∧ b ≤ 0x39 then some (b.toNat - 0x30)
  else if 0x61 ≤ b ∧ b ≤ 0x66 then some (b.toNat - 0x61 + 10)
  else if 0x41 ≤ b ∧ b ≤ 0x46 then some (b.toNat - 0x41 + 10)
  else none

/-- Read digits of a base after those already read; nothing if a character is no digit of the base. -/
def readDigits (base : Nat) : Nat → Text → Option Nat
  | acc, [] => some acc
  | acc, b :: bs =>
    match digitValue b with
    | none => none
    | some d => if d < base then readDigits base (acc * base + d) bs else none

/-- A numeral: at least one digit (30_encoding.md R86). -/
def readNumeral (base : Nat) (t : Text) : Option Nat :=
  if t.isEmpty then none else readDigits base 0 t

/-- `value(t)` of a literal token, unbounded and unmasked; nothing when `t` is no literal (30_encoding.md R86, R87):
`0x` and hex digits, or decimal digits. -/
def literalValue (t : Token) : Option Nat :=
  if t.take 2 = [0x30, 0x78] then readNumeral 16 (t.drop 2) else readNumeral 10 t

/-! ### Register keys -/

/-- The index `i` of the key `t` among `"R1"` .. `"R<nregs>"` (10_state.md R23): `R`, then the decimal digits of
`i` without a leading zero. -/
def keyIndex (nregs : Nat) (t : Token) : Option Nat :=
  match t with
  | [] => none
  | b :: ds =>
    if b = 0x52 ∧ ds.head? ≠ some 0x30 then
      match readNumeral 10 ds with
      | none => none
      | some i => if 1 ≤ i ∧ i ≤ nregs then some i else none
    else none

/-- Whether a token begins like a register name, with `R` or `r` (30_encoding.md R85 step 2). -/
def beginsLikeRegister (t : Token) : Bool :=
  t.head? == some 0x52 || t.head? == some 0x72

/-! ### Resolution -/

/-- Destination resolution (30_encoding.md R80): a key, or `UnknownRegister` whatever the token's shape. -/
def State.destination (s : State) (t : Token) : Except ExecutionError Nat :=
  match keyIndex s.cfg.nregs t with
  | some i => .ok i
  | none => .error .unknownRegister

/-- `get_value` (30_encoding.md R85): a register's current value, or a literal masked to `WIDTH` bits (R89). -/
def State.getValue (s : State) (t : Token) : Except ExecutionError Nat :=
  match keyIndex s.cfg.nregs t with
  | some i => .ok (s.readReg i)
  | none =>
    if beginsLikeRegister t then .error .unknownRegister
    else
      match literalValue t with
      | some v => .ok (Alu.toUnsignedMasked (v : Int) s.cfg.width)
      | none => .error .invalidOperand

/-- Operands of a register-writing instruction with a source: the destination's index, its old value `a`, the
source's value `b`. -/
structure DestSource where
  dest : Nat
  a : Nat
  b : Nat
  deriving DecidableEq, Repr

/-- Steps 6 and 7 of 41_execute_and_move.md R140 for the formats `DS` and `LD`: destination first, then source. -/
def State.destSource (s : State) (d src : Token) : Except ExecutionError DestSource :=
  match s.destination d with
  | .error e => .error e
  | .ok i =>
    match s.getValue src with
    | .error e => .error e
    | .ok b => .ok ⟨i, s.readReg i, b⟩

/-- Operands of `STORE`: the data and the effective address. -/
structure DataAddress where
  data : Nat
  address : Nat
  deriving DecidableEq, Repr

/-- Steps 6 and 7 of 41_execute_and_move.md R140 for the format `ST`: data first, then address. -/
def State.dataAddress (s : State) (v m : Token) : Except ExecutionError DataAddress :=
  match s.getValue v with
  | .error e => .error e
  | .ok x =>
    match s.getValue m with
    | .error e => .error e
    | .ok a => .ok ⟨x, a⟩

/-- The bounds test of step 8 (20_memory.md R52, R53): the address against the untruncated `MEMSIZE`. -/
def State.inBounds (s : State) (a : Nat) : Bool := decide (a < s.cfg.memsize)

end Sys2Proof.Machine
end

