-- ==== Sys2Proof/Machine/Arithmetic.lean ====
section
/-! DEFINITION. `ADD`, `SUB`, `MUL`, `DIV` (42_arithmetic.md R160 to R163). -/

namespace Sys2Proof.Machine

/-- `ADD d s`: `x[d] <- (d + s) mod 2^WIDTH`, all four flags (42_arithmetic.md R160). -/
def execAdd (d src : Token) (s : State) : Host.Outcome State Fault Refusal :=
  s.complete <| (s.destSource d src).bind fun o =>
    let r := (Alu.add o.a o.b s.cfg.width).1
    .ok (s.commitResult o.dest r (Flags.afterAdd s.cfg.width o.a o.b))

/-- `SUB d s`: `x[d] <- (d - s) mod 2^WIDTH`, all four flags, CARRY the borrow (42_arithmetic.md R161). -/
def execSub (d src : Token) (s : State) : Host.Outcome State Fault Refusal :=
  s.complete <| (s.destSource d src).bind fun o =>
    let r := (Alu.sub o.a o.b s.cfg.width).1
    .ok (s.commitResult o.dest r (Flags.afterSub s.cfg.width o.a o.b))

/-- `MUL d s`: the low word of the product; ZERO and SIGN (42_arithmetic.md R162). -/
def execMul (d src : Token) (s : State) : Host.Outcome State Fault Refusal :=
  s.complete <| (s.destSource d src).bind fun o =>
    let r := Alu.mul o.a o.b s.cfg.width
    .ok (s.commitResult o.dest r (s.flags.withResult s.cfg.width r))

/-- `DIV d s`: the unsigned quotient, or `DivisionByZero` before any write; ZERO and SIGN (42_arithmetic.md R163). -/
def execDiv (d src : Token) (s : State) : Host.Outcome State Fault Refusal :=
  s.complete <| (s.destSource d src).bind fun o =>
    if o.b = 0 then .error .divisionByZero
    else
      let r := Alu.div o.a o.b
      .ok (s.commitResult o.dest r (s.flags.withResult s.cfg.width r))

end Sys2Proof.Machine
end

