-- ==== Sys2Proof/Machine/LoadStore.lean ====
section
/-! DEFINITION. `LOAD`, `STORE` (45_memory_ops.md R210 to R212). Neither writes a flag (10_state.md R34). -/

namespace Sys2Proof.Machine

/-- `LOAD d m`: `x[d] <- Mem[m]`, or `MemoryOutOfBounds` (45_memory_ops.md R210, R212). -/
def execLoad (d m : Token) (s : State) : Host.Outcome State Fault Refusal :=
  s.complete <| (s.destSource d m).bind fun o =>
    if s.inBounds o.b then .ok (s.writeReg o.dest (s.readCell o.b)) else .error .memoryOutOfBounds

/-- `STORE v m`: `Mem[m] <- v`, or `MemoryOutOfBounds` (45_memory_ops.md R211, R212). -/
def execStore (v m : Token) (s : State) : Host.Outcome State Fault Refusal :=
  s.complete <| (s.dataAddress v m).bind fun o =>
    if s.inBounds o.address then .ok (s.writeCell o.address o.data) else .error .memoryOutOfBounds

end Sys2Proof.Machine
end

