-- ==== Sys2Proof/Machine/Logic.lean ====
section
/-! DEFINITION. `AND`, `OR`, `XOR`, `NOT` (43_logic.md R180 to R183): ZERO and SIGN written, CARRY and OVERFLOW kept. -/

namespace Sys2Proof.Machine

/-- `AND d s` (43_logic.md R180). -/
def execAnd (d src : Token) (s : State) : Host.Outcome State Fault Refusal :=
  s.complete <| (s.destSource d src).bind fun o =>
    let r := Alu.and o.a o.b
    .ok (s.commitResult o.dest r (s.flags.withResult s.cfg.width r))

/-- `OR d s` (43_logic.md R181). -/
def execOr (d src : Token) (s : State) : Host.Outcome State Fault Refusal :=
  s.complete <| (s.destSource d src).bind fun o =>
    let r := Alu.or o.a o.b
    .ok (s.commitResult o.dest r (s.flags.withResult s.cfg.width r))

/-- `XOR d s` (43_logic.md R182). -/
def execXor (d src : Token) (s : State) : Host.Outcome State Fault Refusal :=
  s.complete <| (s.destSource d src).bind fun o =>
    let r := Alu.xor o.a o.b
    .ok (s.commitResult o.dest r (s.flags.withResult s.cfg.width r))

/-- `NOT d`: the complement within `WIDTH` bits (43_logic.md R183). -/
def execNot (d : Token) (s : State) : Host.Outcome State Fault Refusal :=
  s.complete <| (s.destination d).bind fun i =>
    let r := Alu.not (s.readReg i) s.cfg.width
    .ok (s.commitResult i r (s.flags.withResult s.cfg.width r))

end Sys2Proof.Machine
end

