-- ==== Sys2Proof/Machine/Move.lean ====
section
/-! DEFINITION. `MOV` (41_execute_and_move.md R150). It writes no flag (10_state.md R34). -/

namespace Sys2Proof.Machine

/-- `MOV d s`: `x[d] <- s` (41_execute_and_move.md R150). -/
def execMov (d src : Token) (s : State) : Host.Outcome State Fault Refusal :=
  s.complete <| (s.destSource d src).bind fun o => .ok (s.writeReg o.dest o.b)

end Sys2Proof.Machine
end

