-- ==== Sys2Proof/Machine/Shift.lean ====
section
/-! DEFINITION. `SHL`, `SHR` (44_shift.md R200, R201): ZERO and SIGN written, CARRY and OVERFLOW kept. -/

namespace Sys2Proof.Machine

/-- `SHL d s`: logical shift left, 0 for an amount of `WIDTH` or more (44_shift.md R200). -/
def execShl (d src : Token) (s : State) : Host.Outcome State Fault Refusal :=
  s.complete <| (s.destSource d src).bind fun o =>
    let r := Alu.shiftLeft o.a o.b s.cfg.width
    .ok (s.commitResult o.dest r (s.flags.withResult s.cfg.width r))

/-- `SHR d s`: logical shift right, 0 for an amount of `WIDTH` or more (44_shift.md R201). -/
def execShr (d src : Token) (s : State) : Host.Outcome State Fault Refusal :=
  s.complete <| (s.destSource d src).bind fun o =>
    let r := Alu.shiftRight o.a o.b s.cfg.width
    .ok (s.commitResult o.dest r (s.flags.withResult s.cfg.width r))

end Sys2Proof.Machine
end

