-- ==== Sys2Proof/Machine/Dispatch.lean ====
section
/-! DEFINITION. Steps 6 to 11 of 41_execute_and_move.md R140 for a decoded instruction: one arm per instruction. -/

namespace Sys2Proof.Machine

def exec (i : Instr) (s : State) : Host.Outcome State Fault Refusal :=
  match i with
  | .mov d src => Sys2Proof.Machine.execMov d src s
  | .add d src => Sys2Proof.Machine.execAdd d src s
  | .sub d src => Sys2Proof.Machine.execSub d src s
  | .mul d src => Sys2Proof.Machine.execMul d src s
  | .div d src => Sys2Proof.Machine.execDiv d src s
  | .and d src => Sys2Proof.Machine.execAnd d src s
  | .or d src => Sys2Proof.Machine.execOr d src s
  | .xor d src => Sys2Proof.Machine.execXor d src s
  | .not d => Sys2Proof.Machine.execNot d s
  | .shl d src => Sys2Proof.Machine.execShl d src s
  | .shr d src => Sys2Proof.Machine.execShr d src s
  | .load d m => Sys2Proof.Machine.execLoad d m s
  | .store v m => Sys2Proof.Machine.execStore v m s

end Sys2Proof.Machine
end

