-- ==== Sys2Proof/Machine/Dump.lean ====
section
/-! DEFINITION. The `dump` observation (10_state.md R44 to R47): the snapshot and its text renderings, pure functions
of the state. -/

namespace Sys2Proof.Machine

/-- The character of a digit, uppercase above 9 (10_state.md R47). -/
def digitChar (d : Nat) : Byte :=
  if d < 10 then BitVec.ofNat 8 (0x30 + d) else BitVec.ofNat 8 (0x41 + (d - 10))

/-- Digits of `n` in a base, most significant first, in front of `acc`; `fuel` bounds their number. -/
def digitsOnto (base : Nat) : Nat → Nat → Text → Text
  | 0, _, acc => acc
  | fuel + 1, n, acc =>
    let acc' := digitChar (n % base) :: acc
    if n / base = 0 then acc' else digitsOnto base fuel (n / base) acc'

/-- The shortest decimal numeral (10_state.md R47). A number has no more decimal digits than bits, and at least one. -/
def decimalText (n : Nat) : Text := digitsOnto 10 (n.log2 + 1) n []

/-- Exactly `k` digits of `n` in a base, most significant first, zero-padded. -/
def fixedDigits (base : Nat) : Nat → Nat → Text
  | 0, _ => []
  | k + 1, n => fixedDigits base k (n / base) ++ [digitChar (n % base)]

/-- The binary rendering: exactly `width` digits (10_state.md R46). -/
def binaryText (width m : Nat) : Text := fixedDigits 2 width m

/-- The hex rendering: uppercase, `ceil(width / 4)` digits, no prefix (10_state.md R47). -/
def hexText (width m : Nat) : Text := fixedDigits 16 ((width + 3) / 4) m

/-- The name of register `i` (10_state.md R23). -/
def registerName (i : Nat) : Text := 0x52 :: decimalText i

/-- One register's entry of the snapshot (10_state.md R45). -/
def State.view (s : State) (i : Nat) : RegView :=
  let m := s.readReg i
  { name := registerName i, magnitude := m, decimal := decimalText m,
    hex := hexText s.cfg.width m, binary := binaryText s.cfg.width m }

/-- The snapshot `dump` returns (10_state.md R45): registers in index order `R1` .. `R<NREGS>`. -/
def State.snapshot (s : State) : Snapshot where
  programCounter := s.pc
  registers := (List.range s.cfg.nregs).map fun k => s.view (k + 1)
  flags := s.flags

/-- The `dump` transaction (10_state.md R44): the snapshot is returned and nothing else changes. -/
def execDump (s : State) : Host.Outcome State Fault Refusal :=
  .next (s.answer (.snapshot s.snapshot))

end Sys2Proof.Machine
end

