-- ==== Sys2Proof/Machine/Transactions.lean ====
section
/-! DEFINITION. The two transactions with a live instance (00_scope.md R9), each atomic. -/

namespace Sys2Proof.Machine

/-- `execute(line)` (41_execute_and_move.md R140): the decoder's steps 1 to 5, then the instruction. -/
def executeLine (line : Text) (s : State) : Host.Outcome State Fault Refusal :=
  match decode line with
  | .error e => .next (s.raise e)
  | .ok i => exec i s

/-- Serve one transaction. -/
def serve (r : Request) (s : State) : Host.Outcome State Fault Refusal :=
  match r with
  | .execute line => executeLine line s
  | .dump => execDump s

/-- Take the next transaction the caller has submitted, if there is one. -/
def State.takeRequest (s : State) : Option (Request × State) :=
  match s.pending with
  | [] => none
  | r :: rest => some (r, { s with pending := rest })

/-- Submit a transaction ahead of those already pending, so that it is taken next. -/
def State.submitFirst (s : State) (r : Request) : State := { s with pending := r :: s.pending }

end Sys2Proof.Machine
end

