-- ==== Sys2Proof/Machine/Step.lean ====
section
/-! DEFINITION. One step of the machine: one transaction (70_reset_and_hazards.md R290), from fetch of the caller's
next request to its reply. -/

namespace Sys2Proof.Machine

/-- Serve the caller's next transaction. With none submitted the engine waits, unchanged, in its one state "ready to
execute the next instruction" (10_state.md R40, 70_reset_and_hazards.md R276; log entry 3). A state whose
configuration no construction gives has no meaning (R272; log entry 11). -/
def step (s : State) : Host.Outcome State Fault Refusal :=
  if s.cfg.wf then
    match s.takeRequest with
    | none => .next s
    | some (r, t) => serve r t
  else .refused .invalidConfiguration

/-- Submit the line that stands for a table row's word, to be taken by the very next step (log entries 9 and 10). -/
def State.withFetchWord (s : State) (nbits w : Nat) : State :=
  s.submitFirst (.execute (tableLine nbits w))

end Sys2Proof.Machine
end

