-- ==== Sys2Proof/WellFormed.lean ====
section
/-! DEFINITION. Which decoded instructions a line can stand for: an operand token holds no whitespace
(30_encoding.md R71) and ends in no comma (R75). The empty token is one of them: the line `MOV R1 ,` has it. -/

namespace Sys2Proof

/-- A token with no whitespace character in it (30_encoding.md R71). -/
def noSpace (t : Token) : Bool := t.all fun b => !isSpace b

/-- A token whose last character, if any, is not a comma (30_encoding.md R75). -/
def noFinalComma (t : Token) : Bool := t.getLast? != some commaByte

/-- An operand token as the decoder yields it. -/
def operandWf (t : Token) : Bool := noSpace t && noFinalComma t

/-- A decoded instruction that some line stands for. -/
def Instr.wf (i : Instr) : Bool := i.operands.all operandWf

end Sys2Proof
end

