-- ==== Sys2Proof/Safety.lean ====
section
/-! DEFINITION. The terms that statements about the machine are written in: the invariant, and the words of the spec
(register key, literal, value of a source, error of a source) said directly, without the functions the machine resolves
operands with. -/

namespace Sys2Proof.Machine

/-! ### The invariant -/

/-- What every state that construction and the transactions reach satisfies: the configuration is one that
construction accepts (70_reset_and_hazards.md R271), the key set is the configured one (10_state.md R24), every
stored value is a magnitude (R21), memory is canonical and lists cells of the instance only (20_memory.md R50). -/
structure State.Inv (s : State) : Prop where
  config : s.cfg.wf = true
  regCount : s.regs.length = s.cfg.nregs
  regRange : ∀ v ∈ s.regs, v < 2 ^ s.cfg.width
  memCanonical : s.mem.wf = true
  memBound : ∀ c ∈ s.mem, c.1 < s.cfg.memsize
  memRange : ∀ c ∈ s.mem, c.2 < 2 ^ s.cfg.width
  pcRange : s.pc < 2 ^ s.cfg.width

/-- Every stored value is a magnitude (10_state.md R21). -/
def State.InRange (s : State) : Prop :=
  (∀ i, 1 ≤ i → i ≤ s.cfg.nregs → s.readReg i < 2 ^ s.cfg.width) ∧
  (∀ a, s.readCell a < 2 ^ s.cfg.width) ∧ s.pc < 2 ^ s.cfg.width

/-- The most recent `execute` returned an error. Whether a claim calls that "gone wrong" is the claim's business
(93_implementation_defined.md, under part 1); the machine goes on (60_exceptions.md R242). -/
def State.returnedError (s : State) : Prop := ∃ e, s.reply = some (.err e)

/-- `k` steps, one transaction each, stopping at the first fault or refusal. -/
def runFor : Nat → State → Host.Outcome State Fault Refusal
  | 0, s => .next s
  | k + 1, s =>
    match step s with
    | .next t => runFor k t
    | .fault r => .fault r
    | .refused r => .refused r

/-- Change the state of an outcome that has one. -/
def mapNext (f : State → State) : Host.Outcome State Fault Refusal → Host.Outcome State Fault Refusal
  | .next s => .next (f s)
  | .fault r => .fault r
  | .refused r => .refused r

/-! ### The words of the spec -/

/-- The whitespace characters (30_encoding.md R71). -/
def IsWhitespace (b : Byte) : Prop :=
  b.toNat = 9 ∨ b.toNat = 10 ∨ b.toNat = 11 ∨ b.toNat = 12 ∨ b.toNat = 13 ∨ b.toNat = 32

/-- The ASCII characters of a list of decimal digits. -/
def digitChars (ds : List Nat) : Text := ds.map fun d => BitVec.ofNat 8 (48 + d)

/-- The shortest decimal numeral of `n`. -/
def shortestDecimal (n : Nat) : Text :=
  if n = 0 then digitChars [0] else digitChars (Nat.digits 10 n).reverse

/-- The key of register `i`: `R` and the decimal digits of `i` without leading zeros (10_state.md R23). -/
def keyName (i : Nat) : Token := 0x52 :: shortestDecimal i

/-- `t` is the key of register `i` of this instance (10_state.md R23). -/
def IsKey (s : State) (t : Token) (i : Nat) : Prop := 1 ≤ i ∧ i ≤ s.cfg.nregs ∧ t = keyName i

/-- `t` names no register of this instance. -/
def NotKey (s : State) (t : Token) : Prop := ∀ i, ¬ IsKey s t i

/-- `c` is a hex digit of value `d` (30_encoding.md R86, R87). -/
def IsHexDigit (c : Byte) (d : Nat) : Prop :=
  (d < 10 ∧ c.toNat = 48 + d) ∨
  (10 ≤ d ∧ d < 16 ∧ (c.toNat = 97 + (d - 10) ∨ c.toNat = 65 + (d - 10)))

/-- `t` is a literal of value `v` (30_encoding.md R86, R87): decimal digits, or `0x` and hex digits, at least one,
spelling `v` in base 10 or 16. -/
def IsLiteral (t : Token) (v : Nat) : Prop :=
  (∃ ds : List Nat, ds ≠ [] ∧ (∀ d ∈ ds, d < 10) ∧ t = digitChars ds ∧ v = Nat.ofDigits 10 ds.reverse) ∨
  (∃ (cs : Text) (ds : List Nat), ds ≠ [] ∧ List.Forall₂ IsHexDigit cs ds ∧ t = 0x30 :: 0x78 :: cs ∧
    v = Nat.ofDigits 16 ds.reverse)

/-- The source or address token `t` has the value `b` (30_encoding.md R85 steps 1 and 3, R89). -/
def SourceValue (s : State) (t : Token) (b : Nat) : Prop :=
  (∃ i, IsKey s t i ∧ b = s.readReg i) ∨ (∃ v, IsLiteral t v ∧ b = v % 2 ^ s.cfg.width)

/-- The source or address token `t` is refused with the error `e` (30_encoding.md R85 steps 2 and 4). -/
def SourceError (s : State) (t : Token) (e : ExecutionError) : Prop :=
  NotKey s t ∧
    (((t.head? = some 0x52 ∨ t.head? = some 0x72) ∧ e = .unknownRegister) ∨
     (t.head? ≠ some 0x52 ∧ t.head? ≠ some 0x72 ∧ (∀ v, ¬ IsLiteral t v) ∧ e = .invalidOperand))

/-- `s` after an `execute` that returned `e`: only the reply differs (60_exceptions.md R240). -/
def State.erred (s : State) (e : ExecutionError) : State := { s with reply := some (.err e) }

end Sys2Proof.Machine

namespace Sys2Proof

/-! ### Operand roles and flag writes of the instructions -/

/-- The destination token of the 12 register-writing instructions (10_state.md R26). -/
def Instr.destination? : Instr → Option Token
  | .mov d _ | .add d _ | .sub d _ | .mul d _ | .div d _ | .and d _ | .or d _ | .xor d _ => some d
  | .not d => some d
  | .shl d _ | .shr d _ => some d
  | .load d _ => some d
  | .store _ _ => none

/-- The second operand token, a source or an address (30_encoding.md R78). -/
def Instr.second? : Instr → Option Token
  | .mov _ s | .add _ s | .sub _ s | .mul _ s | .div _ s | .and _ s | .or _ s | .xor _ s => some s
  | .not _ => none
  | .shl _ s | .shr _ s => some s
  | .load _ m => some m
  | .store _ m => some m

/-- Whether the instruction writes ZERO and SIGN (10_state.md R34). -/
def Instr.writesZeroSign : Instr → Bool
  | .mov _ _ => false
  | .add _ _ | .sub _ _ | .mul _ _ | .div _ _ | .and _ _ | .or _ _ | .xor _ _ | .not _ | .shl _ _ | .shr _ _ => true
  | .load _ _ | .store _ _ => false

/-- Whether the instruction writes CARRY and OVERFLOW (10_state.md R34). -/
def Instr.writesCarryOverflow : Instr → Bool
  | .add _ _ | .sub _ _ => true
  | .mov _ _ | .mul _ _ | .div _ _ | .and _ _ | .or _ _ | .xor _ _ | .not _ | .shl _ _ | .shr _ _ => false
  | .load _ _ | .store _ _ => false

/-- Whether the instruction is `STORE`. -/
def Instr.isStore : Instr → Bool
  | .store _ _ => true
  | .mov _ _ | .add _ _ | .sub _ _ | .mul _ _ | .div _ _ | .and _ _ | .or _ _ | .xor _ _ | .not _ | .shl _ _
  | .shr _ _ | .load _ _ => false

/-- Whether the instruction is `LOAD`. -/
def Instr.isLoad : Instr → Bool
  | .load _ _ => true
  | .mov _ _ | .add _ _ | .sub _ _ | .mul _ _ | .div _ _ | .and _ _ | .or _ _ | .xor _ _ | .not _ | .shl _ _
  | .shr _ _ | .store _ _ => false

end Sys2Proof
end

