-- ==== Sys2Proof/Certificates/Slice0/Obligations.lean ====
section
/-! DEFINITION. The statements for the provers, from the numbered rules of spec/. Each holds for every configuration
of the engine (the width, register count and memory size are data of the state) unless it says otherwise. `mem.read`
is the read of one cell, `readReg i` the read of register `R<i>`. -/


section Statements

open Sys2Proof Sys2Proof.Machine

/-! ### One step -/

/-- A step at an `execute` whose line decodes is the decoded instruction, the request taken
(41_execute_and_move.md R140; that requests stand in the state is the model's choice, log entry 3). -/
def Obligations.StepRunsTheDecodedInstruction : Prop :=
  ∀ (s : State) (line : Text) (rest : List Request) (i : Instr),
    s.cfg.wf = true → s.pending = .execute line :: rest → decode line = .ok i →
    step s = exec i { s with pending := rest }

/-- A step at an `execute` whose line the decoder rejects returns the decoder's error and changes nothing else
(41_execute_and_move.md R140 steps 2 to 4). -/
def Obligations.StepReturnsTheDecodersError : Prop :=
  ∀ (s : State) (line : Text) (rest : List Request) (e : ExecutionError),
    s.cfg.wf = true → s.pending = .execute line :: rest → decode line = .error e →
    step s = .next { s with pending := rest, reply := some (.err e) }

/-- The very next step runs a table row's instruction (the model's choice of the line, log entry 9). -/
def Obligations.FetchWordRunsTheTableInstruction : Prop :=
  ∀ (s : State) (nbits w : Nat) (i : Instr),
    s.cfg.wf = true → decodeTableWord nbits w = some i → step (s.withFetchWord nbits w) = exec i s

/-- The engine never faults and never stops: from any state of an engine, any number of steps gives a state, and the
configuration is never touched (60_exceptions.md R242; 00_scope.md R8). A state whose configuration no construction
gives is refused by name (log entry 11). -/
def Obligations.TheEngineNeverStops : Prop :=
  (∀ (s : State) (k : Nat), s.cfg.wf = true →
    ∃ t, runFor k s = .next t ∧ t.cfg = s.cfg) ∧
  (∀ s : State, s.cfg.wf = false → step s = .refused .invalidConfiguration)

/-! ### The decoder and the encoder -/

/-- A line of whitespace only, or of nothing, returns `EmptyInstruction` with no state change, and no other line does
(30_encoding.md R72). -/
def Obligations.EmptyLineIsEmptyInstruction : Prop :=
  ∀ (s : State) (line : Text) (rest : List Request), s.cfg.wf = true → s.pending = .execute line :: rest →
    ((∀ b ∈ line, IsWhitespace b) →
      step s = .next { s with pending := rest, reply := some (.err .emptyInstruction) }) ∧
    ((∃ b ∈ line, ¬ IsWhitespace b) →
      ∃ t, step s = .next t ∧ t.reply ≠ some (.err .emptyInstruction))

/-- Token 0 outside the 13 mnemonics returns `UnknownInstruction`, whatever the other tokens are
(30_encoding.md R73, R74). -/
def Obligations.UnknownOpcodeIsUnknownInstruction : Prop :=
  ∀ (s : State) (line : Text) (rest : List Request) (t0 : Token) (ts : List Token),
    s.cfg.wf = true → s.pending = .execute line :: rest → tokens line = t0 :: ts →
    (∀ op : Op, upper t0 ≠ op.mnemonic) →
    step s = .next { s with pending := rest, reply := some (.err .unknownInstruction) }

/-- A known opcode with a wrong number of operand tokens returns `InvalidOperand`, whatever the operands are
(30_encoding.md R79, the spec's decision D7). -/
def Obligations.WrongOperandCountIsInvalidOperand : Prop :=
  ∀ (s : State) (line : Text) (rest : List Request) (t0 : Token) (ts : List Token) (op : Op),
    s.cfg.wf = true → s.pending = .execute line :: rest → tokens line = t0 :: ts →
    upper t0 = op.mnemonic → ts.length ≠ op.operandCount →
    step s = .next { s with pending := rest, reply := some (.err .invalidOperand) }

/-- Any amount of whitespace separates two tokens, and whitespace before the first and after the last is ignored
(30_encoding.md R71, the six characters being the spec's decision D5). -/
def Obligations.TokensAreSeparatedByAnyWhitespace : Prop :=
  ∀ (lead trail : Text) (first : Token) (more : List (Text × Token)),
    (∀ b ∈ lead, IsWhitespace b) → (∀ b ∈ trail, IsWhitespace b) →
    first ≠ [] → (∀ b ∈ first, ¬ IsWhitespace b) →
    (∀ p ∈ more, p.1 ≠ [] ∧ (∀ b ∈ p.1, IsWhitespace b) ∧ p.2 ≠ [] ∧ (∀ b ∈ p.2, ¬ IsWhitespace b)) →
    tokens (lead ++ first ++ more.flatMap (fun p => p.1 ++ p.2) ++ trail) = first :: more.map Prod.snd

/-- From an operand token exactly the commas at its end are removed (30_encoding.md R75, all of them by the spec's
decision D6). -/
def Obligations.ExactlyTheTrailingCommasAreStripped : Prop :=
  ∀ t : Token, ∃ k : Nat, t = stripCommas t ++ List.replicate k commaByte ∧
    (stripCommas t).getLast? ≠ some commaByte

/-- Token 0 selects an operation exactly when it has the mnemonic's length and each byte, ANDed with 0xDF, is the
mnemonic's byte (30_encoding.md R95, the byte-level statement under its table). -/
def Obligations.OpcodeSelectionIsTheMaskedMatch : Prop :=
  ∀ (t0 : Token) (op : Op),
    selectOp t0 = some op ↔ t0.map (fun b => b &&& 0xDF) = op.mnemonic

/-- Decoding the canonical line of a well-formed instruction gives it back, for every operand token the encoding admits
(30_encoding.md R96, R99). -/
def Obligations.DecodeEncodeIsTheInstruction : Prop :=
  ∀ i : Instr, i.wf = true → decode (encode i) = .ok i

/-- Every instruction the decoder answers is well-formed (30_encoding.md R71, R75, R96). -/
def Obligations.DecodedInstructionsAreWellFormed : Prop :=
  ∀ (line : Text) (i : Instr), decode line = .ok i → i.wf = true

/-- Lines written out from the spec's encodings decode to the instructions they stand for (95_test_vectors.md T3, P1 to
P3; 30_encoding.md R95 for the table words). -/
def Obligations.WrittenOutLinesDecode : Prop :=
  -- `MoV R1, 0xfA,`
  decode [0x4D, 0x6F, 0x56, 0x20, 0x52, 0x31, 0x2C, 0x20, 0x30, 0x78, 0x66, 0x41, 0x2C] =
    .ok (.mov [0x52, 0x31] [0x30, 0x78, 0x66, 0x41]) ∧
  -- `SUB R2 R1`
  decode [0x53, 0x55, 0x42, 0x20, 0x52, 0x32, 0x20, 0x52, 0x31] = .ok (.sub [0x52, 0x32] [0x52, 0x31]) ∧
  -- `NOT R1`
  decode [0x4E, 0x4F, 0x54, 0x20, 0x52, 0x31] = .ok (.not [0x52, 0x31]) ∧
  -- `STORE 0xFF R1`
  decode [0x53, 0x54, 0x4F, 0x52, 0x45, 0x20, 0x30, 0x78, 0x46, 0x46, 0x20, 0x52, 0x31] =
    .ok (.store [0x30, 0x78, 0x46, 0x46] [0x52, 0x31]) ∧
  -- the table's word of `LOAD`, lower case in its second character
  decodeTableWord 32 0x4C6F4144 = some (.load [0x52, 0x31] [0x30])

/-! ### Operand resolution -/

/-- The register keys are exactly the texts `R1` .. `R<NREGS>`, `R` and the index without leading zeros
(10_state.md R23, the spelling being the spec's decision D8). -/
def Obligations.RegisterKeysAreExactlyTheNames : Prop :=
  ∀ (n i : Nat) (t : Token), keyIndex n t = some i ↔ 1 ≤ i ∧ i ≤ n ∧ t = keyName i

/-- A token is a literal exactly by the grammar of 30_encoding.md R86 and has exactly the value of R87 (the spec's
decision D10). -/
def Obligations.LiteralsAreExactlyTheGrammar : Prop :=
  ∀ (t : Token) (v : Nat), literalValue t = some v ↔ IsLiteral t v

/-- `get_value` has four outcomes: a register's value, `UnknownRegister`, a masked literal, `InvalidOperand`
(30_encoding.md R85, R89; the spec's decisions D9 and D11). -/
def Obligations.SourceResolutionHasFourOutcomes : Prop :=
  ∀ (s : State) (t : Token),
    (∀ b, SourceValue s t b ↔ s.getValue t = .ok b) ∧
    (∀ e, SourceError s t e ↔ s.getValue t = .error e)

/-- A destination that is no register key returns `UnknownRegister`, whatever its shape and whatever the source is
(30_encoding.md R80 and the priority of 60_exceptions.md R245; the spec's decisions D12 and D14). -/
def Obligations.BadDestinationIsUnknownRegister : Prop :=
  ∀ (i : Instr) (s : State) (d : Token), i.destination? = some d → NotKey s d →
    exec i s = .next (s.erred .unknownRegister)

/-- With operand 1 good, the error of operand 2 is returned, before any division or bounds test
(60_exceptions.md R245; the spec's decision D14). -/
def Obligations.BadSecondOperandIsReturned : Prop :=
  (∀ (i : Instr) (s : State) (d src : Token) (k : Nat) (e : ExecutionError),
    i.destination? = some d → i.second? = some src → IsKey s d k → SourceError s src e →
    exec i s = .next (s.erred e)) ∧
  (∀ (s : State) (v m : Token) (x : Nat) (e : ExecutionError),
    SourceValue s v x → SourceError s m e → exec (.store v m) s = .next (s.erred e))

/-- The data operand of `STORE` is resolved first, as a source (45_memory_ops.md R211; the spec's decisions D13, D14). -/
def Obligations.BadStoreDataIsReturned : Prop :=
  ∀ (s : State) (v m : Token) (e : ExecutionError),
    SourceError s v e → exec (.store v m) s = .next (s.erred e)

/-! ### The instructions: result, flags, and everything else unchanged -/

/-- `MOV d s` writes the source's value and nothing else (41_execute_and_move.md R150; no flag by the spec's decision
D15). -/
def Obligations.MovWritesTheSource : Prop :=
  ∀ (s : State) (d src : Token) (k b : Nat), IsKey s d k → SourceValue s src b →
    exec (.mov d src) s = .next { s with regs := s.regs.set (k - 1) b, reply := some .ok }

/-- `ADD d s` (42_arithmetic.md R160; OVERFLOW and SIGN by the spec's decisions D16, D17). -/
def Obligations.AddWritesSumAndFlags : Prop :=
  ∀ (s : State) (d src : Token) (k a b r : Nat), IsKey s d k → SourceValue s src b → a = s.readReg k →
    r = (a + b) % 2 ^ s.cfg.width →
    exec (.add d src) s = .next { s with
      regs := s.regs.set (k - 1) r
      flags := {
        zero := decide (r = 0)
        carry := decide (2 ^ s.cfg.width ≤ a + b)
        overflow := decide (a.testBit (s.cfg.width - 1) = b.testBit (s.cfg.width - 1) ∧
          r.testBit (s.cfg.width - 1) ≠ a.testBit (s.cfg.width - 1))
        sign := r.testBit (s.cfg.width - 1) }
      reply := some .ok }

/-- `SUB d s`: the result is congruent to the exact difference, CARRY is the borrow (42_arithmetic.md R161; OVERFLOW and
SIGN by the spec's decisions D16, D17). -/
def Obligations.SubWritesDifferenceAndFlags : Prop :=
  ∀ (s : State) (d src : Token) (k a b r : Nat), IsKey s d k → SourceValue s src b → a = s.readReg k →
    (r : Int) = ((a : Int) - (b : Int)) % (2 : Int) ^ s.cfg.width →
    exec (.sub d src) s = .next { s with
      regs := s.regs.set (k - 1) r
      flags := {
        zero := decide (r = 0)
        carry := decide (a < b)
        overflow := decide (a.testBit (s.cfg.width - 1) ≠ b.testBit (s.cfg.width - 1) ∧
          r.testBit (s.cfg.width - 1) ≠ a.testBit (s.cfg.width - 1))
        sign := r.testBit (s.cfg.width - 1) }
      reply := some .ok }

/-- `MUL d s` writes the low word, ZERO and SIGN (42_arithmetic.md R162; the flags by the spec's decisions D15, D18). -/
def Obligations.MulWritesLowWord : Prop :=
  ∀ (s : State) (d src : Token) (k a b r : Nat), IsKey s d k → SourceValue s src b → a = s.readReg k →
    r = (a * b) % 2 ^ s.cfg.width →
    exec (.mul d src) s = .next { s with
      regs := s.regs.set (k - 1) r
      flags := { s.flags with zero := decide (r = 0), sign := r.testBit (s.cfg.width - 1) }
      reply := some .ok }

/-- `DIV d s` by a non-zero value writes the unsigned quotient, ZERO and SIGN (42_arithmetic.md R163; the flags by the
spec's decisions D15, D18). -/
def Obligations.DivWritesQuotient : Prop :=
  ∀ (s : State) (d src : Token) (k a b r : Nat), IsKey s d k → SourceValue s src b → a = s.readReg k →
    0 < b → r * b ≤ a → a < (r + 1) * b →
    exec (.div d src) s = .next { s with
      regs := s.regs.set (k - 1) r
      flags := { s.flags with zero := decide (r = 0), sign := r.testBit (s.cfg.width - 1) }
      reply := some .ok }

/-- `AND d s` (43_logic.md R180; the flags by the spec's decisions D15, D18). -/
def Obligations.AndWritesEachBit : Prop :=
  ∀ (s : State) (d src : Token) (k a b r : Nat), IsKey s d k → SourceValue s src b → a = s.readReg k →
    (∀ j, r.testBit j = (a.testBit j && b.testBit j)) →
    exec (.and d src) s = .next { s with
      regs := s.regs.set (k - 1) r
      flags := { s.flags with zero := decide (r = 0), sign := r.testBit (s.cfg.width - 1) }
      reply := some .ok }

/-- `OR d s` (43_logic.md R181; the flags by the spec's decisions D15, D18). -/
def Obligations.OrWritesEachBit : Prop :=
  ∀ (s : State) (d src : Token) (k a b r : Nat), IsKey s d k → SourceValue s src b → a = s.readReg k →
    (∀ j, r.testBit j = (a.testBit j || b.testBit j)) →
    exec (.or d src) s = .next { s with
      regs := s.regs.set (k - 1) r
      flags := { s.flags with zero := decide (r = 0), sign := r.testBit (s.cfg.width - 1) }
      reply := some .ok }

/-- `XOR d s` (43_logic.md R182; the flags by the spec's decisions D15, D18). -/
def Obligations.XorWritesEachBit : Prop :=
  ∀ (s : State) (d src : Token) (k a b r : Nat), IsKey s d k → SourceValue s src b → a = s.readReg k →
    (∀ j, r.testBit j = (a.testBit j != b.testBit j)) →
    exec (.xor d src) s = .next { s with
      regs := s.regs.set (k - 1) r
      flags := { s.flags with zero := decide (r = 0), sign := r.testBit (s.cfg.width - 1) }
      reply := some .ok }

/-- `NOT d` inverts the `WIDTH` bits of a magnitude and no other (43_logic.md R183; the flags by the spec's decisions
D15, D18). -/
def Obligations.NotInvertsEachBit : Prop :=
  ∀ (s : State) (d : Token) (k a r : Nat), IsKey s d k → a = s.readReg k → a < 2 ^ s.cfg.width →
    (∀ j, r.testBit j = (decide (j < s.cfg.width) && !a.testBit j)) →
    exec (.not d) s = .next { s with
      regs := s.regs.set (k - 1) r
      flags := { s.flags with zero := decide (r = 0), sign := r.testBit (s.cfg.width - 1) }
      reply := some .ok }

/-- `SHL d s`: `(a * 2^b) mod 2^WIDTH` for every amount, so 0 for an amount of `WIDTH` or more
(44_shift.md R200, 40_alu_primitives.md R120; the flags by the spec's decisions D15, D18). -/
def Obligations.ShlWritesShiftedWord : Prop :=
  ∀ (s : State) (d src : Token) (k a b r : Nat), IsKey s d k → SourceValue s src b → a = s.readReg k →
    r = (a * 2 ^ b) % 2 ^ s.cfg.width →
    exec (.shl d src) s = .next { s with
      regs := s.regs.set (k - 1) r
      flags := { s.flags with zero := decide (r = 0), sign := r.testBit (s.cfg.width - 1) }
      reply := some .ok } ∧ (s.cfg.width ≤ b → r = 0)

/-- `SHR d s` of a magnitude: `floor(a / 2^b)` for every amount, so 0 for an amount of `WIDTH` or more and no copy of the
sign bit (44_shift.md R201, 40_alu_primitives.md R121; the flags by the spec's decisions D15, D18). -/
def Obligations.ShrWritesShiftedWord : Prop :=
  ∀ (s : State) (d src : Token) (k a b r : Nat), IsKey s d k → SourceValue s src b → a = s.readReg k →
    a < 2 ^ s.cfg.width → r = a / 2 ^ b →
    exec (.shr d src) s = .next { s with
      regs := s.regs.set (k - 1) r
      flags := { s.flags with zero := decide (r = 0), sign := r.testBit (s.cfg.width - 1) }
      reply := some .ok } ∧ (s.cfg.width ≤ b → r = 0)

/-- `LOAD d m` below `MEMSIZE` writes the cell to the destination and nothing else (45_memory_ops.md R210, R212; no flag
by the spec's decision D15). -/
def Obligations.LoadWritesTheCell : Prop :=
  ∀ (s : State) (d m : Token) (k ea : Nat), IsKey s d k → SourceValue s m ea → ea < s.cfg.memsize →
    exec (.load d m) s = .next { s with regs := s.regs.set (k - 1) (s.mem.read ea), reply := some .ok }

/-- `STORE v m` below `MEMSIZE` writes that cell and no other, no register and no flag (45_memory_ops.md R211, R212; a
literal as data by the spec's decision D13). The canonical form is a premise; that every step keeps it is
`EveryStepKeepsTheInvariant`. -/
def Obligations.StoreWritesExactlyOneCell : Prop :=
  ∀ (s : State) (v m : Token) (x ea : Nat), s.mem.wf = true →
    SourceValue s v x → SourceValue s m ea → ea < s.cfg.memsize →
    ∃ t, exec (.store v m) s = .next t ∧ t = { s with mem := t.mem, reply := some .ok } ∧
      t.mem.wf = true ∧ ∀ a, t.mem.read a = if a = ea then x else s.mem.read a

/-! ### The errors of the operations -/

/-- `DivisionByZero` is raised by `DIV` with good operands and a zero divisor and by nothing else; it mutates no
register; its code is 5 (60_exceptions.md R235). -/
def Obligations.DivisionByZeroExactly : Prop :=
  (∀ (i : Instr) (s t : State), exec i s = .next t →
    (t.reply = some (.err .divisionByZero) ↔
      ∃ d src k, i = .div d src ∧ IsKey s d k ∧ SourceValue s src 0)) ∧
  (∀ (s : State) (d src : Token) (k : Nat), IsKey s d k → SourceValue s src 0 →
    exec (.div d src) s = .next (s.erred .divisionByZero)) ∧
  errorCode .divisionByZero = 5

/-- `MemoryOutOfBounds` is raised by `LOAD` and `STORE` with good operands and an address at or above `MEMSIZE` and by
nothing else, and leaves memory unchanged; with `MEMSIZE = 0` every address is out of bounds; its code is 6
(60_exceptions.md R236). -/
def Obligations.MemoryOutOfBoundsExactly : Prop :=
  (∀ (i : Instr) (s t : State), exec i s = .next t →
    (t.reply = some (.err .memoryOutOfBounds) ↔
      (∃ d m k ea, i = .load d m ∧ IsKey s d k ∧ SourceValue s m ea ∧ s.cfg.memsize ≤ ea) ∨
      (∃ v m x ea, i = .store v m ∧ SourceValue s v x ∧ SourceValue s m ea ∧ s.cfg.memsize ≤ ea)) ∧
    (t.reply = some (.err .memoryOutOfBounds) → t.mem = s.mem)) ∧
  errorCode .memoryOutOfBounds = 6

/-- An engine without memory can be constructed, and its every `LOAD` and `STORE` whose operands resolve returns
`MemoryOutOfBounds` (20_memory.md R55). -/
def Obligations.NoMemoryMeansAlwaysOutOfBounds : Prop :=
  (∀ w n : Nat, 1 ≤ w → 1 ≤ n → ∃ s, construct w n 0 = .ok s ∧ s.cfg.memsize = 0) ∧
  (∀ (s : State) (d m : Token) (k ea : Nat), s.cfg.memsize = 0 → IsKey s d k → SourceValue s m ea →
    exec (.load d m) s = .next (s.erred .memoryOutOfBounds)) ∧
  (∀ (s : State) (v m : Token) (x ea : Nat), s.cfg.memsize = 0 → SourceValue s v x → SourceValue s m ea →
    exec (.store v m) s = .next (s.erred .memoryOutOfBounds))

/-- When an instruction raises an error, registers, flags, memory and program counter are exactly as before the call:
`execute` returns `Err(e)` and that is the whole of it (60_exceptions.md R240). -/
def Obligations.AnErrorChangesNothing : Prop :=
  ∀ (s t : State) (line : Text) (rest : List Request) (e : ExecutionError),
    s.pending = .execute line :: rest → step s = .next t → t.reply = some (.err e) →
    t = { s with pending := rest, reply := some (.err e) }

/-- `execute` returns `Ok` or one of the six errors, nothing else (41_execute_and_move.md R142). -/
def Obligations.ExecuteReturnsOkOrAnError : Prop :=
  ∀ (s : State) (line : Text) (rest : List Request), s.cfg.wf = true → s.pending = .execute line :: rest →
    ∃ t, step s = .next t ∧ (t.reply = some .ok ∨ ∃ e, t.reply = some (.err e))

/-! ### The ALU -/

/-- `to_signed` and masking are inverse bijections between the magnitudes and the signed range
(40_alu_primitives.md R113). -/
def Obligations.SignedDecodeAndMaskingAreInverse : Prop :=
  ∀ w : Nat, 1 ≤ w →
    (∀ m : Nat, m < 2 ^ w → Alu.toUnsignedMasked (Alu.toSigned m w) w = m ∧
      -(2 : Int) ^ (w - 1) ≤ Alu.toSigned m w ∧ Alu.toSigned m w ≤ (2 : Int) ^ (w - 1) - 1) ∧
    (∀ v : Int, -(2 : Int) ^ (w - 1) ≤ v → v ≤ (2 : Int) ^ (w - 1) - 1 →
      Alu.toUnsignedMasked v w < 2 ^ w ∧ Alu.toSigned (Alu.toUnsignedMasked v w) w = v)

/-- OVERFLOW says that the exact signed sum or difference does not fit (40_alu_primitives.md R127; for `SUB`, and at every
width, the spec's decision D17). -/
def Obligations.OverflowIsSignedOutOfRange : Prop :=
  ∀ w a b : Nat, 1 ≤ w → a < 2 ^ w → b < 2 ^ w →
    ((Flags.afterAdd w a b).overflow = true ↔
      Alu.toSigned a w + Alu.toSigned b w < -(2 : Int) ^ (w - 1) ∨
      (2 : Int) ^ (w - 1) ≤ Alu.toSigned a w + Alu.toSigned b w) ∧
    ((Flags.afterSub w a b).overflow = true ↔
      Alu.toSigned a w - Alu.toSigned b w < -(2 : Int) ^ (w - 1) ∨
      (2 : Int) ^ (w - 1) ≤ Alu.toSigned a w - Alu.toSigned b w)

/-- The relations between the flag values of 40_alu_primitives.md R129, (a) to (e), which the spec derives from its
definitions of the flags. (a) and (e) are said of every flag set that is computed from a result, by `ADD`, by `SUB` or by
the other eight ALU instructions, and of the state after each of the ten; (b) to (d) are said of `ADD` and `SUB`. -/
def Obligations.FlagRelations : Prop :=
  (∀ w a b : Nat, 1 ≤ w → a < 2 ^ w → b < 2 ^ w →
    (∀ (f : Flags) (r : Nat), r < 2 ^ w →
      ¬ ((f.withResult w r).zero = true ∧ (f.withResult w r).sign = true) ∧
      (w = 1 → (f.withResult w r).sign = !(f.withResult w r).zero)) ∧
    (¬ ((Flags.afterAdd w a b).zero = true ∧ (Flags.afterAdd w a b).sign = true) ∧
      (w = 1 → (Flags.afterAdd w a b).sign = !(Flags.afterAdd w a b).zero)) ∧
    (¬ ((Flags.afterSub w a b).zero = true ∧ (Flags.afterSub w a b).sign = true) ∧
      (w = 1 → (Flags.afterSub w a b).sign = !(Flags.afterSub w a b).zero)) ∧
    ((Flags.afterAdd w a b).carry = true ∧ (Flags.afterAdd w a b).zero = true ↔ a + b = 2 ^ w) ∧
    ((Flags.afterSub w a b).zero = true ↔ a = b) ∧
    ((Flags.afterSub w a b).zero = true →
      (Flags.afterSub w a b).carry = false ∧ (Flags.afterSub w a b).overflow = false) ∧
    ((Flags.afterSub w a b).carry = true ↔ a < b) ∧
    (((Flags.afterSub w a b).sign ^^ (Flags.afterSub w a b).overflow) = true ↔
      Alu.toSigned a w < Alu.toSigned b w)) ∧
  (∀ (i : Instr) (s t : State), s.Inv → i.writesZeroSign = true → exec i s = .next t → t.reply = some .ok →
    ¬ (t.flags.zero = true ∧ t.flags.sign = true) ∧ (s.cfg.width = 1 → t.flags.sign = !t.flags.zero))

/-- `SUB` undoes `ADD` and `ADD` undoes `SUB` on every pair of magnitudes; so `ADD d s` then `SUB d s`, the source being a
literal or another register, leaves every register as it was, with the flags of the second operation
(40_alu_primitives.md R130). -/
def Obligations.AddThenSubRestoresTheRegister : Prop :=
  (∀ w a b : Nat, a < 2 ^ w → b < 2 ^ w →
    (Alu.sub (Alu.add a b w).1 b w).1 = a ∧ (Alu.add (Alu.sub a b w).1 b w).1 = a) ∧
  (∀ (s t u : State) (d src : Token) (k : Nat), s.Inv → IsKey s d k → d ≠ src →
    exec (.add d src) s = .next t → t.reply = some .ok → exec (.sub d src) t = .next u →
    u.regs = s.regs ∧
      ∃ b, SourceValue s src b ∧ u.flags = Flags.afterSub s.cfg.width (t.readReg k) b)

/-- The negation idiom (40_alu_primitives.md R131): `NOT` then `ADD 1` gives the two's complement, with CARRY and ZERO
for 0, and for the most negative value gives it again, with OVERFLOW exactly when the width is at least 2. -/
def Obligations.NegationIdiom : Prop :=
  ∀ w a : Nat, 1 ≤ w → a < 2 ^ w →
    (Alu.add (Alu.not a w) 1 w).1 = Alu.toUnsignedMasked (-(a : Int)) w ∧
    (a = 0 → (Flags.afterAdd w (Alu.not a w) 1).carry = true ∧ (Flags.afterAdd w (Alu.not a w) 1).zero = true) ∧
    (a = 2 ^ (w - 1) → (Alu.add (Alu.not a w) 1 w).1 = a ∧
      ((Flags.afterAdd w (Alu.not a w) 1).overflow = true ↔ 2 ≤ w))

/-- The identities of 40_alu_primitives.md R132 that tie one ALU function to another or to the mask; and, which is no
identity of R132, that XOR with the mask is NOT: the corner case `XOR d <MASK>` of 43_logic.md R182, on the functions
of 40_alu_primitives.md R118 and R119. -/
def Obligations.AluIdentities : Prop :=
  ∀ w a b : Nat, 1 ≤ w → a < 2 ^ w → b < 2 ^ w →
    Alu.add a b w = Alu.add b a w ∧ Alu.mul a b w = Alu.mul b a w ∧
    Alu.add a 0 w = (a, false) ∧ Alu.sub a 0 w = (a, false) ∧
    Alu.and a (Alu.mask w) = a ∧ Alu.xor a (Alu.mask w) = Alu.not a w ∧ Alu.not (Alu.not a w) w = a ∧
    Alu.shiftLeft a 1 w = (Alu.add a a w).1 ∧
    (∀ k, k < w → Alu.shiftRight a k w = Alu.div a (2 ^ k))

/-! ### Memory -/

/-- A `LOAD` of the address just stored to returns the stored value, and a `LOAD` of another address what it returned
before (20_memory.md R60, R64). -/
def Obligations.LoadReadsTheLastStore : Prop :=
  ∀ (s t : State) (v m d m' : Token) (x ea ea' k : Nat), s.Inv →
    SourceValue s v x → SourceValue s m ea → ea < s.cfg.memsize → exec (.store v m) s = .next t →
    IsKey s d k → SourceValue s m' ea' → ea' < s.cfg.memsize →
    ∃ u, exec (.load d m') t = .next u ∧ u.reply = some .ok ∧
      u.readReg k = if ea' = ea then x else s.mem.read ea'

/-- Cells that no address of `WIDTH` bits reaches stay zero for ever (20_memory.md R54, resting on the spec's decision
D21). An index of `MEMSIZE` or more is no cell of the spec (R61): that it too reads 0 is the model's choice of a total
read, log entry 7, and says here that no run ever lists such a cell. -/
def Obligations.UnreachableCellsStayZero : Prop :=
  ∀ (c : Config) (script : List Request) (k : Nat) (t : State) (a : Nat), c.wf = true →
    runFor k ((State.fresh c).submit script) = .next t →
    (2 ^ c.width ≤ a ∨ c.memsize ≤ a) → t.mem.read a = 0

/-! ### Invariants and whole-machine rules -/

/-- Every constructed engine, and the model's reset state (its configuration: log entry 2), satisfies the invariant
(70_reset_and_hazards.md R270, R271; the canonical form of memory is the model's, log entry 7). -/
def Obligations.InvariantHoldsAfterConstruction : Prop :=
  (∀ (w n m : Nat) (s : State), construct w n m = .ok s → s.Inv) ∧ State.reset.Inv

/-- Every step keeps the invariant: the configuration legal (70_reset_and_hazards.md R271), the key set as configured
(10_state.md R24), every register, cell and the program counter a magnitude (R21, R27), memory within `MEMSIZE`
(20_memory.md R50) and in canonical form (the model's representation, log entry 7). -/
def Obligations.EveryStepKeepsTheInvariant : Prop :=
  ∀ s t : State, s.Inv → step s = .next t → t.Inv

/-- After any sequence of transactions with a constructed engine (none too: the reset state) every register, every cell
and the program counter hold a value in `[0, 2^WIDTH - 1]`, and every instruction keeps it so (10_state.md R21). -/
def Obligations.StoredValuesAreAlwaysInRange : Prop :=
  (∀ (c : Config) (script : List Request) (k : Nat) (t : State), c.wf = true →
    runFor k ((State.fresh c).submit script) = .next t → t.InRange) ∧
  (∀ (i : Instr) (s t : State), s.Inv → exec i s = .next t → t.InRange)

/-- The program counter is inert: no transaction changes it, no instruction reads it, `dump` reads it
(10_state.md R28). -/
def Obligations.ProgramCounterIsInert : Prop :=
  (∀ s t : State, step s = .next t → t.pc = s.pc) ∧
  (∀ (i : Instr) (s : State) (p : Nat),
    exec i { s with pc := p } = mapNext (fun t => { t with pc := p }) (exec i s)) ∧
  (∀ s : State, s.snapshot.programCounter = s.pc) ∧
  (∀ (s t : State) (k : Nat), runFor k s = .next t → t.pc = s.pc)

/-- The configuration and the key set are fixed for the lifetime of the engine (10_state.md R24, 00_scope.md R8). -/
def Obligations.ConfigurationIsFixed : Prop :=
  ∀ s t : State, step s = .next t →
    t.cfg = s.cfg ∧ t.regs.length = s.regs.length ∧ ∀ tok i, IsKey t tok i ↔ IsKey s tok i

/-- An instruction changes no register but the one its first operand names, `STORE` changes none, and only `STORE`
changes memory, at its address only (10_state.md R26, 20_memory.md R51, 41_execute_and_move.md R144). -/
def Obligations.OnlyTheDestinationChanges : Prop :=
  ∀ (i : Instr) (s t : State), s.Inv → exec i s = .next t →
    (∀ j, 1 ≤ j → j ≤ s.cfg.nregs → i.destination? ≠ some (keyName j) → t.readReg j = s.readReg j) ∧
    (i.isStore = false → t.mem = s.mem) ∧
    (∀ v m ea a, i = .store v m → SourceValue s m ea → a ≠ ea → t.mem.read a = s.mem.read a) ∧
    t.cfg = s.cfg ∧ t.pc = s.pc ∧ t.pending = s.pending

/-- The only instruction that reads memory is `LOAD` and the only one that writes it is `STORE`; which instruction a line
is never depends on memory; `dump` does not include it (20_memory.md R51). -/
def Obligations.OnlyLoadReadsAndOnlyStoreWritesMemory : Prop :=
  (∀ (i : Instr) (s t : State), i.isStore = false → exec i s = .next t → t.mem = s.mem) ∧
  (∀ (i : Instr) (s : State) (m : Memory), i.isLoad = false →
    mapNext (fun t => { t with mem := [] }) (exec i { s with mem := m }) =
      mapNext (fun t => { t with mem := [] }) (exec i s)) ∧
  (∀ (s : State) (line : Text) (rest : List Request), s.cfg.wf = true → s.pending = .execute line :: rest →
    (∃ i, ∀ m : Memory, step { s with mem := m } = exec i { s with mem := m, pending := rest }) ∨
    (∃ e, ∀ m : Memory,
      step { s with mem := m } = .next { s with mem := m, pending := rest, reply := some (.err e) })) ∧
  (∀ (s : State) (m : Memory), State.snapshot { s with mem := m } = s.snapshot)

/-- A flag outside the write-enable table keeps its value (10_state.md R32, R34; the table is the spec's decision D15 and
D18). -/
def Obligations.OtherFlagsAreRetained : Prop :=
  ∀ (i : Instr) (s t : State), exec i s = .next t →
    (i.writesZeroSign = false → t.flags.zero = s.flags.zero ∧ t.flags.sign = s.flags.sign) ∧
    (i.writesCarryOverflow = false → t.flags.carry = s.flags.carry ∧ t.flags.overflow = s.flags.overflow)

/-- No instruction reads a flag (10_state.md R35, which the spec derives). -/
def Obligations.NoInstructionReadsAFlag : Prop :=
  ∀ (i : Instr) (s : State) (f : Flags),
    mapNext (fun t => { t with flags := Flags.cleared }) (exec i { s with flags := f }) =
      mapNext (fun t => { t with flags := Flags.cleared }) (exec i s)

/-- An error is not remembered: what a transaction does depends neither on what the one before returned nor on what the
caller will submit later (60_exceptions.md R241, 41_execute_and_move.md R145). -/
def Obligations.NothingIsRememberedOfEarlierResults : Prop :=
  ∀ (s : State) (req : Request) (rest rest' : List Request) (r : Option Reply), s.pending = req :: rest →
    step { s with pending := req :: rest', reply := r } = mapNext (fun t => { t with pending := rest' }) (step s)

/-! ### Construction and dump -/

/-- Construction is refused exactly when the width or the register count is 0 (70_reset_and_hazards.md R271; the name of
the failure is the spec's decision D3). -/
def Obligations.ConstructionIsRefusedExactly : Prop :=
  ∀ w n m : Nat, (construct w n m = .error .invalidConfiguration ↔ w = 0 ∨ n = 0) ∧
    (1 ≤ w → 1 ≤ n → ∃ s, construct w n m = .ok s)

/-- After construction every register, every cell and the program counter are 0 and every flag is false
(70_reset_and_hazards.md R270, 10_state.md R48; memory's zero is the source's, the others the spec's decision D4;
that indices outside the instance read 0 too is the model's, log entries 7 and 28). -/
def Obligations.ConstructionGivesTheResetValues : Prop :=
  ∀ (w n m : Nat) (s : State), construct w n m = .ok s →
    s.cfg = ⟨w, n, m⟩ ∧ s.regs.length = n ∧ (∀ i, s.readReg i = 0) ∧ (∀ a, s.mem.read a = 0) ∧ s.pc = 0 ∧
    s.flags = { zero := false, carry := false, overflow := false, sign := false }

/-- `dump` always succeeds, returns the current values and changes nothing; two in a row return equal snapshots
(10_state.md R44). -/
def Obligations.DumpIsAReadOnlyProjection : Prop :=
  ∀ (s : State) (rest : List Request), s.cfg.wf = true → s.pending = .dump :: rest →
    ∃ d : Snapshot, step s = .next { s with pending := rest, reply := some (.snapshot d) } ∧
      d.programCounter = s.pc ∧ d.flags = s.flags ∧
      d.registers.map RegView.magnitude = (List.range s.cfg.nregs).map (fun k => s.readReg (k + 1)) ∧
      (∀ rest', rest = .dump :: rest' →
        runFor 2 s = .next { s with pending := rest', reply := some (.snapshot d) })

/-- The snapshot lists the registers in index order by name, with the shortest decimal numeral and the zero-padded
uppercase hex numeral of the magnitude (10_state.md R45, R47; order and hex format are the spec's decision D25). -/
def Obligations.DumpNamesAndNumerals : Prop :=
  ∀ (s : State) (k : Nat), k < s.cfg.nregs → s.readReg (k + 1) < 2 ^ s.cfg.width →
    ∃ (v : RegView) (ds : List Nat), s.snapshot.registers[k]? = some v ∧
      v.name = keyName (k + 1) ∧ v.magnitude = s.readReg (k + 1) ∧ v.decimal = shortestDecimal v.magnitude ∧
      v.hex.length = (s.cfg.width + 3) / 4 ∧
      List.Forall₂ IsHexDigit v.hex ds ∧ (∀ c ∈ v.hex, c.toNat < 97) ∧ Nat.ofDigits 16 ds.reverse = v.magnitude

/-- The binary rendering is always zero-padded to exactly `WIDTH` digits, most significant bit first; 12 at width 8 is
`00001100` (10_state.md R46). -/
def Obligations.BinaryRenderingIsTheBits : Prop :=
  (∀ (s : State) (k : Nat), k < s.cfg.nregs →
    ∃ v : RegView, s.snapshot.registers[k]? = some v ∧ v.binary.length = s.cfg.width ∧
      ∀ j, j < s.cfg.width →
        v.binary[j]? = some (if v.magnitude.testBit (s.cfg.width - 1 - j) then 0x31 else 0x30)) ∧
  binaryText 8 12 = [0x30, 0x30, 0x30, 0x30, 0x31, 0x31, 0x30, 0x30]

end Statements
end

