-- ==== Sys2Proof/Laws/Alu.lean ====
section
/-! SUPPORT. What each ALU function gives, and that every result is a magnitude (40_alu_primitives.md R111 to R121). -/

namespace Sys2Proof.Machine.Alu

theorem toUnsignedMasked_lt (z : Int) (w : Nat) : toUnsignedMasked z w < 2 ^ w := by
  have hpos : (0 : Int) < ((2 ^ w : Nat) : Int) := by exact_mod_cast Nat.two_pow_pos w
  have h1 := Int.emod_nonneg z (ne_of_gt hpos)
  have h2 := Int.emod_lt_of_pos z hpos
  unfold toUnsignedMasked
  omega

/-- As an integer, the masked value is the non-negative residue. -/
theorem toUnsignedMasked_cast (z : Int) (w : Nat) :
    ((toUnsignedMasked z w : Nat) : Int) = z % ((2 ^ w : Nat) : Int) := by
  have hpos : (0 : Int) < ((2 ^ w : Nat) : Int) := by exact_mod_cast Nat.two_pow_pos w
  have h1 := Int.emod_nonneg z (ne_of_gt hpos)
  unfold toUnsignedMasked
  omega

theorem toUnsignedMasked_natCast (n w : Nat) : toUnsignedMasked (n : Int) w = n % 2 ^ w := by
  have h := toUnsignedMasked_cast (n : Int) w
  rw [← Int.natCast_mod] at h
  exact_mod_cast h

/-- Masking a magnitude changes nothing (R111). -/
theorem toUnsignedMasked_of_lt {n w : Nat} (h : n < 2 ^ w) : toUnsignedMasked (n : Int) w = n := by
  rw [toUnsignedMasked_natCast, Nat.mod_eq_of_lt h]

theorem add_fst (a b w : Nat) : (add a b w).1 = (a + b) % 2 ^ w := by
  have h : ((a : Int) + (b : Int)) = ((a + b : Nat) : Int) := by push_cast; rfl
  show toUnsignedMasked ((a : Int) + (b : Int)) w = _
  rw [h, toUnsignedMasked_natCast]

@[simp] theorem add_snd (a b w : Nat) : (add a b w).2 = decide (2 ^ w ≤ a + b) := rfl

theorem sub_fst_of_le {a b w : Nat} (h : b ≤ a) (ha : a < 2 ^ w) : (sub a b w).1 = a - b := by
  have h1 : ((a : Int) - (b : Int)) = ((a - b : Nat) : Int) := by omega
  show toUnsignedMasked ((a : Int) - (b : Int)) w = _
  rw [h1, toUnsignedMasked_of_lt (by omega)]

theorem sub_fst_of_lt {a b w : Nat} (h : a < b) (hb : b < 2 ^ w) : (sub a b w).1 = a + 2 ^ w - b := by
  have h1 : ((a : Int) - (b : Int)) % ((2 ^ w : Nat) : Int) = ((a + 2 ^ w - b : Nat) : Int) := by
    rw [← Int.add_emod_right, Int.emod_eq_of_lt (by omega) (by omega)]
    omega
  have h2 := toUnsignedMasked_cast ((a : Int) - (b : Int)) w
  rw [h1] at h2
  show toUnsignedMasked ((a : Int) - (b : Int)) w = _
  exact Int.ofNat_inj.mp h2

@[simp] theorem sub_snd (a b w : Nat) : (sub a b w).2 = decide (a < b) := rfl

theorem mul_eq (a b w : Nat) : mul a b w = (a * b) % 2 ^ w := by
  have h : ((a : Int) * (b : Int)) = ((a * b : Nat) : Int) := by push_cast; rfl
  unfold mul
  rw [h, toUnsignedMasked_natCast]

theorem shiftLeft_eq (a k w : Nat) : shiftLeft a k w = if w ≤ k then 0 else (a * 2 ^ k) % 2 ^ w := by
  unfold shiftLeft
  rw [toUnsignedMasked_natCast]

/-! ### Every result is a magnitude -/

theorem add_lt (a b w : Nat) : (add a b w).1 < 2 ^ w := by
  rw [add_fst]
  exact Nat.mod_lt _ (Nat.two_pow_pos w)

theorem sub_lt (a b w : Nat) : (sub a b w).1 < 2 ^ w := toUnsignedMasked_lt _ w

theorem mul_lt (a b w : Nat) : mul a b w < 2 ^ w := toUnsignedMasked_lt _ w

theorem div_lt {a b w : Nat} (h : a < 2 ^ w) : div a b < 2 ^ w := lt_of_le_of_lt (Nat.div_le_self a b) h

theorem and_lt {a b w : Nat} (h : a < 2 ^ w) : and a b < 2 ^ w := lt_of_le_of_lt Nat.and_le_left h

theorem or_lt {a b w : Nat} (ha : a < 2 ^ w) (hb : b < 2 ^ w) : or a b < 2 ^ w := Nat.or_lt_two_pow ha hb

theorem xor_lt {a b w : Nat} (ha : a < 2 ^ w) (hb : b < 2 ^ w) : xor a b < 2 ^ w := Nat.xor_lt_two_pow ha hb

theorem not_lt (a w : Nat) : not a w < 2 ^ w := by
  have := Nat.two_pow_pos w
  unfold not mask
  omega

theorem shiftLeft_lt (a k w : Nat) : shiftLeft a k w < 2 ^ w := by
  unfold shiftLeft
  split
  · exact Nat.two_pow_pos w
  · exact toUnsignedMasked_lt _ w

theorem shiftRight_lt {a k w : Nat} (h : a < 2 ^ w) : shiftRight a k w < 2 ^ w := by
  unfold shiftRight
  split
  · exact Nat.two_pow_pos w
  · exact lt_of_le_of_lt (Nat.div_le_self _ _) h

end Sys2Proof.Machine.Alu

namespace Sys2Proof.Machine

/-- The sign bit of a magnitude is its comparison with half the modulus (R128). -/
theorem signBit_eq {w v : Nat} (hw : 1 ≤ w) (hv : v < 2 ^ w) : signBit w v = decide (2 ^ (w - 1) ≤ v) := by
  have hp : 2 ^ w = 2 ^ (w - 1) * 2 := by rw [← pow_succ, Nat.sub_add_cancel hw]
  have hpos := Nat.two_pow_pos (w - 1)
  unfold signBit
  rw [Nat.testBit_eq_decide_div_mod_eq, decide_eq_decide]
  constructor
  · intro h
    by_contra hlt
    rw [Nat.div_eq_of_lt (by omega)] at h
    simp at h
  · intro h
    have : v / 2 ^ (w - 1) = 1 := by
      apply Nat.div_eq_of_lt_le <;> omega
    rw [this]

/-- The signed reading of a magnitude (R112), by comparison with half the modulus. -/
theorem Alu.toSigned_eq {m w : Nat} (hw : 1 ≤ w) (hm : m < 2 ^ w) :
    Alu.toSigned m w = if 2 ^ (w - 1) ≤ m then (m : Int) - ((2 ^ w : Nat) : Int) else (m : Int) := by
  have h := signBit_eq hw hm
  unfold signBit at h
  unfold Alu.toSigned
  rw [h]
  simp

end Sys2Proof.Machine
end

