-- ==== Sys2Proof/Laws/Memory.lean ====
section
/-! SUPPORT. The laws of memory: a write keeps the canonical form, a read after it sees the value written there and the
old value everywhere else, and canonical memories that read alike are equal. -/

namespace Sys2Proof.Machine

@[simp] theorem Memory.read_nil (a : Nat) : Memory.read [] a = 0 := rfl

@[simp] theorem Memory.read_cons (k v a : Nat) (rest : Memory) :
    Memory.read ((k, v) :: rest) a = if k = a then v else Memory.read rest a := rfl

@[simp] theorem Memory.wf_nil : Memory.wf [] = true := rfl

theorem Memory.wf_cons {k v : Nat} {rest : Memory} :
    Memory.wf ((k, v) :: rest) = true ↔ v ≠ 0 ∧ (∀ c ∈ rest, k < c.1) ∧ Memory.wf rest = true := by
  simp [Memory.wf, and_assoc]

/-- A cell below every listed one reads 0. -/
theorem Memory.read_below {m : Memory} {a : Nat} (h : ∀ c ∈ m, a < c.1) : m.read a = 0 := by
  induction m with
  | nil => rfl
  | cons c rest ih =>
    obtain ⟨k, v⟩ := c
    have hk : a < k := h (k, v) (by simp)
    rw [Memory.read_cons, if_neg (by omega)]
    exact ih fun c hc => h c (by simp [hc])

/-- What a read gives is 0 or the value of a listed cell of that index. -/
theorem Memory.read_eq_zero_or_mem (m : Memory) (a : Nat) : m.read a = 0 ∨ (a, m.read a) ∈ m := by
  induction m with
  | nil => simp
  | cons c rest ih =>
    obtain ⟨k, v⟩ := c
    rw [Memory.read_cons]
    by_cases hk : k = a
    · simp [hk]
    · simp only [if_neg hk]
      rcases ih with h | h
      · exact .inl h
      · exact .inr (by simp [h])

/-- The listed cells after a write are the one written and cells listed before. -/
theorem Memory.mem_write {m : Memory} {a v : Nat} {c : Cell} (h : c ∈ m.write a v) : c = (a, v) ∨ c ∈ m := by
  induction m with
  | nil =>
    simp only [Memory.write] at h
    split at h <;> simp_all
  | cons d rest ih =>
    obtain ⟨k, w⟩ := d
    simp only [Memory.write] at h
    split at h
    · split at h <;> simp_all
    · split at h
      · split at h <;> simp_all
        rcases h with h | h <;> simp_all
      · rcases List.mem_cons.mp h with h | h
        · simp [h]
        · rcases ih h with h | h <;> simp [h]

/-- Every memory operation that changes memory keeps the canonical form. -/
theorem Memory.wf_write {m : Memory} (a v : Nat) (h : m.wf = true) : (m.write a v).wf = true := by
  induction m with
  | nil =>
    simp only [Memory.write]
    split
    · rfl
    · simp [Memory.wf, *]
  | cons d rest ih =>
    obtain ⟨k, w⟩ := d
    obtain ⟨hw, hlt, hr⟩ := Memory.wf_cons.mp h
    simp only [Memory.write]
    split
    · rename_i hak
      split
      · exact h
      · rename_i hv
        refine Memory.wf_cons.mpr ⟨hv, ?_, h⟩
        intro c hc
        rcases List.mem_cons.mp hc with hc | hc
        · rw [hc]; exact hak
        · exact lt_trans hak (hlt c hc)
    · split
      · rename_i hak
        split
        · exact hr
        · rename_i hv
          exact Memory.wf_cons.mpr ⟨hv, fun c hc => hak ▸ hlt c hc, hr⟩
      · rename_i h1 h2
        refine Memory.wf_cons.mpr ⟨hw, ?_, ih hr⟩
        intro c hc
        rcases Memory.mem_write hc with hc | hc
        · rw [hc]; show k < a; omega
        · exact hlt c hc

/-- What a read gives after a write to canonical memory. -/
theorem Memory.read_write {m : Memory} (h : m.wf = true) (a v b : Nat) :
    (m.write a v).read b = if b = a then v else m.read b := by
  induction m with
  | nil =>
    simp only [Memory.write]
    by_cases hb : b = a
    · split <;> simp_all
    · split <;> simp [Ne.symm hb]
  | cons d rest ih =>
    obtain ⟨k, w⟩ := d
    obtain ⟨hw, hlt, hr⟩ := Memory.wf_cons.mp h
    simp only [Memory.write]
    split
    · rename_i hak
      have h0 : Memory.read ((k, w) :: rest) a = 0 :=
        Memory.read_below fun c hc => by
          rcases List.mem_cons.mp hc with hc | hc
          · rw [hc]; exact hak
          · exact lt_trans hak (hlt c hc)
      split
      · rename_i hv
        by_cases hb : b = a
        · rw [hb, h0, if_pos rfl, hv]
        · rw [if_neg hb]
      · rw [Memory.read_cons]
        by_cases hb : b = a
        · simp [hb]
        · rw [if_neg (Ne.symm hb), if_neg hb]
    · split
      · rename_i hak
        have h0 : Memory.read rest a = 0 := Memory.read_below fun c hc => hak ▸ hlt c hc
        by_cases hb : b = a
        · subst hb
          split
          · rename_i hv; simp [h0, hv]
          · simp
        · have hkb : ¬ k = b := by omega
          split <;> simp [hkb, hak]
      · rename_i h1 h2
        rw [Memory.read_cons, ih hr, Memory.read_cons]
        by_cases hk : k = b
        · have hb : ¬ b = a := by omega
          simp [hk, hb]
        · simp [hk]

/-- The cell written reads the value written. -/
theorem Memory.read_write_same {m : Memory} (h : m.wf = true) (a v : Nat) : (m.write a v).read a = v := by
  rw [Memory.read_write h, if_pos rfl]

/-- Every other cell reads as before. -/
theorem Memory.read_write_other {m : Memory} (h : m.wf = true) {a b : Nat} (v : Nat) (hb : b ≠ a) :
    (m.write a v).read b = m.read b := by
  rw [Memory.read_write h, if_neg hb]

/-- A listed cell of canonical memory reads its value. -/
theorem Memory.read_of_mem {m : Memory} (h : m.wf = true) {a v : Nat} (hc : (a, v) ∈ m) : m.read a = v := by
  induction m with
  | nil => simp at hc
  | cons d rest ih =>
    obtain ⟨k, w⟩ := d
    obtain ⟨hw, hlt, hr⟩ := Memory.wf_cons.mp h
    rw [Memory.read_cons]
    rcases List.mem_cons.mp hc with hc | hc
    · simp_all
    · have := hlt _ hc
      rw [if_neg (by simp at this; omega)]
      exact ih hr hc

end Sys2Proof.Machine
end

