-- ==== Sys2Proof/Laws/State.lean ====
section
/-! SUPPORT. One lemma per field per update of the state, all true by `rfl`, so that no proof unfolds an update; and
the fields of a new instance. -/

namespace Sys2Proof.Machine

/-! ### `writeReg` -/

@[simp] theorem State.writeReg_cfg (s : State) (i v : Nat) : (s.writeReg i v).cfg = s.cfg := rfl
@[simp] theorem State.writeReg_regs (s : State) (i v : Nat) : (s.writeReg i v).regs = s.regs.set (i - 1) v := rfl
@[simp] theorem State.writeReg_flags (s : State) (i v : Nat) : (s.writeReg i v).flags = s.flags := rfl
@[simp] theorem State.writeReg_mem (s : State) (i v : Nat) : (s.writeReg i v).mem = s.mem := rfl
@[simp] theorem State.writeReg_pc (s : State) (i v : Nat) : (s.writeReg i v).pc = s.pc := rfl
@[simp] theorem State.writeReg_pending (s : State) (i v : Nat) : (s.writeReg i v).pending = s.pending := rfl
@[simp] theorem State.writeReg_reply (s : State) (i v : Nat) : (s.writeReg i v).reply = s.reply := rfl

/-! ### `writeFlags` -/

@[simp] theorem State.writeFlags_cfg (s : State) (f : Flags) : (s.writeFlags f).cfg = s.cfg := rfl
@[simp] theorem State.writeFlags_regs (s : State) (f : Flags) : (s.writeFlags f).regs = s.regs := rfl
@[simp] theorem State.writeFlags_flags (s : State) (f : Flags) : (s.writeFlags f).flags = f := rfl
@[simp] theorem State.writeFlags_mem (s : State) (f : Flags) : (s.writeFlags f).mem = s.mem := rfl
@[simp] theorem State.writeFlags_pc (s : State) (f : Flags) : (s.writeFlags f).pc = s.pc := rfl
@[simp] theorem State.writeFlags_pending (s : State) (f : Flags) : (s.writeFlags f).pending = s.pending := rfl
@[simp] theorem State.writeFlags_reply (s : State) (f : Flags) : (s.writeFlags f).reply = s.reply := rfl

/-! ### `writeCell` -/

@[simp] theorem State.writeCell_cfg (s : State) (a v : Nat) : (s.writeCell a v).cfg = s.cfg := rfl
@[simp] theorem State.writeCell_regs (s : State) (a v : Nat) : (s.writeCell a v).regs = s.regs := rfl
@[simp] theorem State.writeCell_flags (s : State) (a v : Nat) : (s.writeCell a v).flags = s.flags := rfl
@[simp] theorem State.writeCell_mem (s : State) (a v : Nat) : (s.writeCell a v).mem = s.mem.write a v := rfl
@[simp] theorem State.writeCell_pc (s : State) (a v : Nat) : (s.writeCell a v).pc = s.pc := rfl
@[simp] theorem State.writeCell_pending (s : State) (a v : Nat) : (s.writeCell a v).pending = s.pending := rfl
@[simp] theorem State.writeCell_reply (s : State) (a v : Nat) : (s.writeCell a v).reply = s.reply := rfl

/-! ### `commitResult` -/

@[simp] theorem State.commitResult_cfg (s : State) (i r : Nat) (f : Flags) : (s.commitResult i r f).cfg = s.cfg := rfl
@[simp] theorem State.commitResult_regs (s : State) (i r : Nat) (f : Flags) : (s.commitResult i r f).regs = s.regs.set (i - 1) r := rfl
@[simp] theorem State.commitResult_flags (s : State) (i r : Nat) (f : Flags) : (s.commitResult i r f).flags = f := rfl
@[simp] theorem State.commitResult_mem (s : State) (i r : Nat) (f : Flags) : (s.commitResult i r f).mem = s.mem := rfl
@[simp] theorem State.commitResult_pc (s : State) (i r : Nat) (f : Flags) : (s.commitResult i r f).pc = s.pc := rfl
@[simp] theorem State.commitResult_pending (s : State) (i r : Nat) (f : Flags) : (s.commitResult i r f).pending = s.pending := rfl
@[simp] theorem State.commitResult_reply (s : State) (i r : Nat) (f : Flags) : (s.commitResult i r f).reply = s.reply := rfl

/-! ### `answer` -/

@[simp] theorem State.answer_cfg (s : State) (r : Reply) : (s.answer r).cfg = s.cfg := rfl
@[simp] theorem State.answer_regs (s : State) (r : Reply) : (s.answer r).regs = s.regs := rfl
@[simp] theorem State.answer_flags (s : State) (r : Reply) : (s.answer r).flags = s.flags := rfl
@[simp] theorem State.answer_mem (s : State) (r : Reply) : (s.answer r).mem = s.mem := rfl
@[simp] theorem State.answer_pc (s : State) (r : Reply) : (s.answer r).pc = s.pc := rfl
@[simp] theorem State.answer_pending (s : State) (r : Reply) : (s.answer r).pending = s.pending := rfl
@[simp] theorem State.answer_reply (s : State) (r : Reply) : (s.answer r).reply = some r := rfl

/-! ### `raise` -/

@[simp] theorem State.raise_cfg (s : State) (e : ExecutionError) : (s.raise e).cfg = s.cfg := rfl
@[simp] theorem State.raise_regs (s : State) (e : ExecutionError) : (s.raise e).regs = s.regs := rfl
@[simp] theorem State.raise_flags (s : State) (e : ExecutionError) : (s.raise e).flags = s.flags := rfl
@[simp] theorem State.raise_mem (s : State) (e : ExecutionError) : (s.raise e).mem = s.mem := rfl
@[simp] theorem State.raise_pc (s : State) (e : ExecutionError) : (s.raise e).pc = s.pc := rfl
@[simp] theorem State.raise_pending (s : State) (e : ExecutionError) : (s.raise e).pending = s.pending := rfl
@[simp] theorem State.raise_reply (s : State) (e : ExecutionError) : (s.raise e).reply = some (.err e) := rfl

/-! ### `returnOk` -/

@[simp] theorem State.returnOk_cfg (s : State) : (s.returnOk).cfg = s.cfg := rfl
@[simp] theorem State.returnOk_regs (s : State) : (s.returnOk).regs = s.regs := rfl
@[simp] theorem State.returnOk_flags (s : State) : (s.returnOk).flags = s.flags := rfl
@[simp] theorem State.returnOk_mem (s : State) : (s.returnOk).mem = s.mem := rfl
@[simp] theorem State.returnOk_pc (s : State) : (s.returnOk).pc = s.pc := rfl
@[simp] theorem State.returnOk_pending (s : State) : (s.returnOk).pending = s.pending := rfl
@[simp] theorem State.returnOk_reply (s : State) : (s.returnOk).reply = some .ok := rfl

/-! ### `submit` -/

@[simp] theorem State.submit_cfg (s : State) (rs : List Request) : (s.submit rs).cfg = s.cfg := rfl
@[simp] theorem State.submit_regs (s : State) (rs : List Request) : (s.submit rs).regs = s.regs := rfl
@[simp] theorem State.submit_flags (s : State) (rs : List Request) : (s.submit rs).flags = s.flags := rfl
@[simp] theorem State.submit_mem (s : State) (rs : List Request) : (s.submit rs).mem = s.mem := rfl
@[simp] theorem State.submit_pc (s : State) (rs : List Request) : (s.submit rs).pc = s.pc := rfl
@[simp] theorem State.submit_pending (s : State) (rs : List Request) : (s.submit rs).pending = s.pending ++ rs := rfl
@[simp] theorem State.submit_reply (s : State) (rs : List Request) : (s.submit rs).reply = s.reply := rfl

/-! ### `submitFirst` -/

@[simp] theorem State.submitFirst_cfg (s : State) (r : Request) : (s.submitFirst r).cfg = s.cfg := rfl
@[simp] theorem State.submitFirst_regs (s : State) (r : Request) : (s.submitFirst r).regs = s.regs := rfl
@[simp] theorem State.submitFirst_flags (s : State) (r : Request) : (s.submitFirst r).flags = s.flags := rfl
@[simp] theorem State.submitFirst_mem (s : State) (r : Request) : (s.submitFirst r).mem = s.mem := rfl
@[simp] theorem State.submitFirst_pc (s : State) (r : Request) : (s.submitFirst r).pc = s.pc := rfl
@[simp] theorem State.submitFirst_pending (s : State) (r : Request) : (s.submitFirst r).pending = r :: s.pending := rfl
@[simp] theorem State.submitFirst_reply (s : State) (r : Request) : (s.submitFirst r).reply = s.reply := rfl

/-! ### `erred` -/

@[simp] theorem State.erred_cfg (s : State) (e : ExecutionError) : (s.erred e).cfg = s.cfg := rfl
@[simp] theorem State.erred_regs (s : State) (e : ExecutionError) : (s.erred e).regs = s.regs := rfl
@[simp] theorem State.erred_flags (s : State) (e : ExecutionError) : (s.erred e).flags = s.flags := rfl
@[simp] theorem State.erred_mem (s : State) (e : ExecutionError) : (s.erred e).mem = s.mem := rfl
@[simp] theorem State.erred_pc (s : State) (e : ExecutionError) : (s.erred e).pc = s.pc := rfl
@[simp] theorem State.erred_pending (s : State) (e : ExecutionError) : (s.erred e).pending = s.pending := rfl
@[simp] theorem State.erred_reply (s : State) (e : ExecutionError) : (s.erred e).reply = some (.err e) := rfl

/-! ### `fresh` -/

@[simp] theorem State.fresh_cfg (c : Config) : (State.fresh c).cfg = c := rfl
@[simp] theorem State.fresh_regs (c : Config) : (State.fresh c).regs = List.replicate c.nregs 0 := rfl
@[simp] theorem State.fresh_flags (c : Config) : (State.fresh c).flags = Flags.cleared := rfl
@[simp] theorem State.fresh_mem (c : Config) : (State.fresh c).mem = [] := rfl
@[simp] theorem State.fresh_pc (c : Config) : (State.fresh c).pc = 0 := rfl
@[simp] theorem State.fresh_pending (c : Config) : (State.fresh c).pending = [] := rfl
@[simp] theorem State.fresh_reply (c : Config) : (State.fresh c).reply = none := rfl

/-! ### Flags -/

@[simp] theorem Flags.withResult_zero (f : Flags) (w r : Nat) : (f.withResult w r).zero = zeroOf r := rfl
@[simp] theorem Flags.withResult_sign (f : Flags) (w r : Nat) : (f.withResult w r).sign = signOf w r := rfl
@[simp] theorem Flags.withResult_carry (f : Flags) (w r : Nat) : (f.withResult w r).carry = f.carry := rfl
@[simp] theorem Flags.withResult_overflow (f : Flags) (w r : Nat) : (f.withResult w r).overflow = f.overflow := rfl
@[simp] theorem Flags.afterAdd_zero (w a b : Nat) :
    (Flags.afterAdd w a b).zero = zeroOf (Alu.add a b w).1 := rfl
@[simp] theorem Flags.afterAdd_carry (w a b : Nat) :
    (Flags.afterAdd w a b).carry = (Alu.add a b w).2 := rfl
@[simp] theorem Flags.afterAdd_overflow (w a b : Nat) :
    (Flags.afterAdd w a b).overflow = overflowAdd w a b (Alu.add a b w).1 := rfl
@[simp] theorem Flags.afterAdd_sign (w a b : Nat) :
    (Flags.afterAdd w a b).sign = signOf w (Alu.add a b w).1 := rfl
@[simp] theorem Flags.afterSub_zero (w a b : Nat) :
    (Flags.afterSub w a b).zero = zeroOf (Alu.sub a b w).1 := rfl
@[simp] theorem Flags.afterSub_carry (w a b : Nat) :
    (Flags.afterSub w a b).carry = (Alu.sub a b w).2 := rfl
@[simp] theorem Flags.afterSub_overflow (w a b : Nat) :
    (Flags.afterSub w a b).overflow = overflowSub w a b (Alu.sub a b w).1 := rfl
@[simp] theorem Flags.afterSub_sign (w a b : Nat) :
    (Flags.afterSub w a b).sign = signOf w (Alu.sub a b w).1 := rfl

/-! ### Reading after an update -/

@[simp] theorem State.readCell_writeReg (s : State) (i v a : Nat) : (s.writeReg i v).readCell a = s.readCell a := rfl
@[simp] theorem State.readCell_answer (s : State) (r : Reply) (a : Nat) : (s.answer r).readCell a = s.readCell a := rfl
@[simp] theorem State.readReg_writeCell (s : State) (a v i : Nat) : (s.writeCell a v).readReg i = s.readReg i := rfl
@[simp] theorem State.readReg_writeFlags (s : State) (f : Flags) (i : Nat) : (s.writeFlags f).readReg i = s.readReg i := rfl
@[simp] theorem State.readReg_answer (s : State) (r : Reply) (i : Nat) : (s.answer r).readReg i = s.readReg i := rfl

/-- A register that exists reads back the value written to it. -/
theorem State.readReg_writeReg_same (s : State) (i v : Nat) (h1 : 1 ≤ i) (h2 : i ≤ s.regs.length) :
    (s.writeReg i v).readReg i = v := by
  have h : i - 1 < s.regs.length := by omega
  simp [State.readReg, h]

/-- Every other register keeps its value. -/
theorem State.readReg_writeReg_other (s : State) (i j v : Nat) (hi : 1 ≤ i) (hj : 1 ≤ j) (h : j ≠ i) :
    (s.writeReg i v).readReg j = s.readReg j := by
  have h' : i - 1 ≠ j - 1 := by omega
  simp [State.readReg, List.getElem?_set_ne h']

/-- A state is determined by its seven fields. -/
theorem State.eq_of_fields {s t : State} (h1 : s.cfg = t.cfg) (h2 : s.regs = t.regs) (h3 : s.flags = t.flags)
    (h4 : s.mem = t.mem) (h5 : s.pc = t.pc) (h6 : s.pending = t.pending) (h7 : s.reply = t.reply) : s = t := by
  cases s; cases t; simp_all

end Sys2Proof.Machine
end

