-- ==== Sys2Proof/Laws/Operands.lean ====
section
/-! SUPPORT. What the operand resolver and the completion of an instruction can answer, each said once. -/

namespace Sys2Proof.Machine

@[simp] theorem State.complete_error (s : State) (e : ExecutionError) :
    s.complete (.error e) = .next (s.raise e) := rfl

@[simp] theorem State.complete_ok (s t : State) : s.complete (.ok t) = .next t.returnOk := rfl

/-- An index that a token names is one of `1 .. NREGS`. -/
theorem keyIndex_bounds {n i : Nat} {t : Token} (h : keyIndex n t = some i) : 1 ≤ i ∧ i ≤ n := by
  unfold keyIndex at h
  split at h
  · cases h
  · split at h
    · split at h
      · cases h
      · split at h
        · simp_all
        · cases h
    · cases h

theorem State.destination_eq_ok {s : State} {t : Token} {i : Nat} :
    s.destination t = .ok i ↔ keyIndex s.cfg.nregs t = some i := by
  unfold State.destination
  cases keyIndex s.cfg.nregs t <;> simp

theorem State.destination_eq_error {s : State} {t : Token} {e : ExecutionError} :
    s.destination t = .error e ↔ keyIndex s.cfg.nregs t = none ∧ e = .unknownRegister := by
  unfold State.destination
  cases keyIndex s.cfg.nregs t <;> simp [eq_comm]

/-- What `get_value` answers when it answers a value. -/
theorem State.getValue_eq_ok {s : State} {t : Token} {b : Nat} (h : s.getValue t = .ok b) :
    (∃ i, keyIndex s.cfg.nregs t = some i ∧ b = s.readReg i) ∨
    (keyIndex s.cfg.nregs t = none ∧ beginsLikeRegister t = false ∧
      ∃ v, literalValue t = some v ∧ b = v % 2 ^ s.cfg.width) := by
  unfold State.getValue at h
  split at h
  · rename_i i hi
    exact .inl ⟨i, hi, by simpa using h.symm⟩
  · rename_i hi
    split at h
    · cases h
    · rename_i hb
      split at h
      · rename_i v hv
        refine .inr ⟨hi, by simpa using hb, v, hv, ?_⟩
        rw [← Alu.toUnsignedMasked_natCast]
        simpa using h.symm
      · cases h

/-- What `DS` and `LD` operand resolution answers when it answers operands. -/
theorem State.destSource_eq_ok {s : State} {d src : Token} {o : DestSource} :
    s.destSource d src = .ok o ↔
      keyIndex s.cfg.nregs d = some o.dest ∧ s.getValue src = .ok o.b ∧ o.a = s.readReg o.dest := by
  unfold State.destSource
  cases hd : s.destination d with
  | error e =>
    have := (State.destination_eq_error.mp hd).1
    simp [this]
  | ok i =>
    have hi := State.destination_eq_ok.mp hd
    cases hb : s.getValue src with
    | error e => simp
    | ok b =>
      obtain ⟨od, oa, ob⟩ := o
      simp only [hi, Except.ok.injEq, DestSource.mk.injEq, Option.some.injEq]
      constructor
      · rintro ⟨rfl, rfl, rfl⟩; exact ⟨rfl, rfl, rfl⟩
      · rintro ⟨rfl, rfl, rfl⟩; exact ⟨rfl, rfl, rfl⟩

/-- What `ST` operand resolution answers when it answers operands. -/
theorem State.dataAddress_eq_ok {s : State} {v m : Token} {o : DataAddress} :
    s.dataAddress v m = .ok o ↔ s.getValue v = .ok o.data ∧ s.getValue m = .ok o.address := by
  unfold State.dataAddress
  cases hv : s.getValue v with
  | error e => simp
  | ok x =>
    cases hm : s.getValue m with
    | error e => simp
    | ok a =>
      obtain ⟨od, oa⟩ := o
      simp only [Except.ok.injEq, DataAddress.mk.injEq]

/-- A register of a state whose registers are in range is a magnitude. -/
theorem State.readReg_lt {s : State} (h : ∀ v ∈ s.regs, v < 2 ^ s.cfg.width) (i : Nat) :
    s.readReg i < 2 ^ s.cfg.width := by
  unfold State.readReg
  by_cases hi : i - 1 < s.regs.length
  · simp only [List.getD, List.getElem?_eq_getElem hi, Option.getD_some]
    exact h _ (List.getElem_mem hi)
  · simp only [List.getD, List.getElem?_eq_none (not_lt.mp hi), Option.getD_none]
    exact Nat.two_pow_pos _

/-- An operand value of such a state is a magnitude (30_encoding.md R89). -/
theorem State.getValue_lt {s : State} (h : ∀ v ∈ s.regs, v < 2 ^ s.cfg.width) {t : Token} {b : Nat}
    (hb : s.getValue t = .ok b) : b < 2 ^ s.cfg.width := by
  rcases State.getValue_eq_ok hb with ⟨i, _, rfl⟩ | ⟨_, _, v, _, rfl⟩
  · exact State.readReg_lt h i
  · exact Nat.mod_lt _ (Nat.two_pow_pos _)

/-- A cell of a state whose listed cells are in range is a magnitude. -/
theorem State.readCell_lt {s : State} (h : ∀ c ∈ s.mem, c.2 < 2 ^ s.cfg.width) (a : Nat) :
    s.readCell a < 2 ^ s.cfg.width := by
  unfold State.readCell
  have hz := Nat.two_pow_pos s.cfg.width
  suffices H : ∀ m : Memory, (∀ c ∈ m, c.2 < 2 ^ s.cfg.width) → m.read a < 2 ^ s.cfg.width from H _ h
  intro m
  induction m with
  | nil => intro _; exact hz
  | cons c rest ih =>
    obtain ⟨k, v⟩ := c
    intro hm
    simp only [Memory.read]
    split
    · exact hm (k, v) (by simp)
    · exact ih fun c hc => hm c (by simp [hc])

end Sys2Proof.Machine
end

