-- ==== Sys2Proof/Laws/Exec.lean ====
section
/-! SUPPORT. What an instruction can do, said once: it ends in an error that changes nothing, it commits one register
and a flag set, or it commits one cell. -/

namespace Sys2Proof.Machine

/-- The flag set `f` differs from `old` only in flags the instruction writes (10_state.md R34), and ZERO and SIGN, where
it writes them, are those of the `w`-bit result `r` (40_alu_primitives.md R124, R128). -/
def FlagsAllowed (i : Instr) (w r : Nat) (old f : Flags) : Prop :=
  (i.writesZeroSign = true → f.zero = zeroOf r ∧ f.sign = signOf w r) ∧
  (i.writesZeroSign = false → f.zero = old.zero ∧ f.sign = old.sign) ∧
  (i.writesCarryOverflow = false → f.carry = old.carry ∧ f.overflow = old.overflow)

/-- The instruction commits `r` to register `k`, its destination, and the flag set `f`. -/
def CommitsRegister (i : Instr) (s : State) (k r : Nat) (f : Flags) : Prop :=
  (∃ d, i.destination? = some d ∧ keyIndex s.cfg.nregs d = some k) ∧
  exec i s = .next (s.commitResult k r f).returnOk ∧
  FlagsAllowed i s.cfg.width r s.flags f ∧
  ((∀ v ∈ s.regs, v < 2 ^ s.cfg.width) → (∀ c ∈ s.mem, c.2 < 2 ^ s.cfg.width) → r < 2 ^ s.cfg.width)

/-- The instruction is `STORE` and commits `x` to cell `a`. -/
def CommitsCell (i : Instr) (s : State) (a x : Nat) : Prop :=
  ∃ v m, i = .store v m ∧ s.getValue v = .ok x ∧ s.getValue m = .ok a ∧ a < s.cfg.memsize ∧
    exec i s = .next (s.writeCell a x).returnOk

/-- Writing a register alone is a commit with the flags as they were. -/
theorem State.writeReg_eq_commitResult (s : State) (k r : Nat) :
    s.writeReg k r = s.commitResult k r s.flags := rfl

/-- The shared shape of the register-writing instructions with a source. -/
theorem complete_destSource (s : State) (d src : Token) (k : DestSource → Except ExecutionError State) :
    (∃ e, s.complete ((s.destSource d src).bind k) = .next (s.raise e)) ∨
    (∃ o t, s.destSource d src = .ok o ∧ k o = .ok t ∧
      s.complete ((s.destSource d src).bind k) = .next t.returnOk) := by
  cases h : s.destSource d src with
  | error e => exact .inl ⟨e, rfl⟩
  | ok o =>
    cases hk : k o with
    | error e => exact .inl ⟨e, by simp [Except.bind, hk]⟩
    | ok t => exact .inr ⟨o, t, rfl, hk, by simp [Except.bind, hk]⟩

/-- An instruction with a source whose continuation commits a register commits it. -/
theorem commitsRegister_of {i : Instr} {s : State} {d src : Token} {k : DestSource → Except ExecutionError State}
    (hd : i.destination? = some d) (he : exec i s = s.complete ((s.destSource d src).bind k))
    (hk : ∀ o t, k o = .ok t → s.destSource d src = .ok o → ∃ r f, t = s.commitResult o.dest r f ∧
      FlagsAllowed i s.cfg.width r s.flags f ∧
      ((∀ v ∈ s.regs, v < 2 ^ s.cfg.width) → (∀ c ∈ s.mem, c.2 < 2 ^ s.cfg.width) → r < 2 ^ s.cfg.width)) :
    (∃ e, exec i s = .next (s.raise e)) ∨ (∃ k r f, CommitsRegister i s k r f) := by
  rcases complete_destSource s d src k with ⟨e, h⟩ | ⟨o, t, ho, ht, h⟩
  · exact .inl ⟨e, he.trans h⟩
  · obtain ⟨r, f, rfl, hf, hr⟩ := hk o t ht ho
    exact .inr ⟨o.dest, r, f, ⟨d, hd, (State.destSource_eq_ok.mp ho).1⟩, he.trans h, hf, hr⟩

/-- The operands of a resolved instruction are magnitudes. -/
theorem destSource_lt {s : State} {d src : Token} {o : DestSource} (h : s.destSource d src = .ok o)
    (hr : ∀ v ∈ s.regs, v < 2 ^ s.cfg.width) : o.a < 2 ^ s.cfg.width ∧ o.b < 2 ^ s.cfg.width := by
  obtain ⟨_, hb, ha⟩ := State.destSource_eq_ok.mp h
  exact ⟨ha ▸ State.readReg_lt hr _, State.getValue_lt hr hb⟩

/-- Every instruction ends in one of three ways (41_execute_and_move.md R141, R144). -/
theorem exec_cases (i : Instr) (s : State) :
    (∃ e, exec i s = .next (s.raise e)) ∨ (∃ k r f, CommitsRegister i s k r f) ∨ (∃ a x, CommitsCell i s a x) := by
  have lift : ((∃ e, exec i s = .next (s.raise e)) ∨ (∃ k r f, CommitsRegister i s k r f)) →
      (∃ e, exec i s = .next (s.raise e)) ∨ (∃ k r f, CommitsRegister i s k r f) ∨ (∃ a x, CommitsCell i s a x) :=
    fun h => h.elim .inl (fun h => .inr (.inl h))
  cases i with
  | mov d src =>
    refine lift (commitsRegister_of rfl rfl ?_)
    rintro o t ht ho
    obtain rfl := Except.ok.inj ht
    exact ⟨o.b, s.flags, rfl, by simp [FlagsAllowed, Instr.writesZeroSign], fun hr _ => (destSource_lt ho hr).2⟩
  | add d src =>
    refine lift (commitsRegister_of rfl rfl ?_)
    rintro o t ht ho
    obtain rfl := Except.ok.inj ht
    exact ⟨_, _, rfl, by simp [FlagsAllowed, Instr.writesZeroSign, Instr.writesCarryOverflow],
      fun _ _ => Alu.add_lt _ _ _⟩
  | sub d src =>
    refine lift (commitsRegister_of rfl rfl ?_)
    rintro o t ht ho
    obtain rfl := Except.ok.inj ht
    exact ⟨_, _, rfl, by simp [FlagsAllowed, Instr.writesZeroSign, Instr.writesCarryOverflow],
      fun _ _ => Alu.sub_lt _ _ _⟩
  | mul d src =>
    refine lift (commitsRegister_of rfl rfl ?_)
    rintro o t ht ho
    obtain rfl := Except.ok.inj ht
    exact ⟨_, _, rfl, by simp [FlagsAllowed, Instr.writesZeroSign], fun _ _ => Alu.mul_lt _ _ _⟩
  | div d src =>
    refine lift (commitsRegister_of rfl rfl ?_)
    rintro o t ht ho
    dsimp only at ht
    split at ht
    · cases ht
    · obtain rfl := Except.ok.inj ht
      exact ⟨_, _, rfl, by simp [FlagsAllowed, Instr.writesZeroSign],
        fun hr _ => Alu.div_lt (destSource_lt ho hr).1⟩
  | and d src =>
    refine lift (commitsRegister_of rfl rfl ?_)
    rintro o t ht ho
    obtain rfl := Except.ok.inj ht
    exact ⟨_, _, rfl, by simp [FlagsAllowed, Instr.writesZeroSign],
      fun hr _ => Alu.and_lt (destSource_lt ho hr).1⟩
  | or d src =>
    refine lift (commitsRegister_of rfl rfl ?_)
    rintro o t ht ho
    obtain rfl := Except.ok.inj ht
    exact ⟨_, _, rfl, by simp [FlagsAllowed, Instr.writesZeroSign],
      fun hr _ => Alu.or_lt (destSource_lt ho hr).1 (destSource_lt ho hr).2⟩
  | xor d src =>
    refine lift (commitsRegister_of rfl rfl ?_)
    rintro o t ht ho
    obtain rfl := Except.ok.inj ht
    exact ⟨_, _, rfl, by simp [FlagsAllowed, Instr.writesZeroSign],
      fun hr _ => Alu.xor_lt (destSource_lt ho hr).1 (destSource_lt ho hr).2⟩
  | not d =>
    show (∃ e, s.complete ((s.destination d).bind _) = _) ∨ _
    cases h : s.destination d with
    | error e => exact .inl ⟨e, rfl⟩
    | ok k =>
      refine .inr (.inl ⟨k, Alu.not (s.readReg k) s.cfg.width,
        s.flags.withResult s.cfg.width (Alu.not (s.readReg k) s.cfg.width), ⟨d, rfl, State.destination_eq_ok.mp h⟩, ?_, ?_, fun _ _ => Alu.not_lt _ _⟩)
      · show s.complete ((s.destination d).bind _) = _
        rw [h]
        rfl
      · simp [FlagsAllowed, Instr.writesZeroSign]
  | shl d src =>
    refine lift (commitsRegister_of rfl rfl ?_)
    rintro o t ht ho
    obtain rfl := Except.ok.inj ht
    exact ⟨_, _, rfl, by simp [FlagsAllowed, Instr.writesZeroSign], fun _ _ => Alu.shiftLeft_lt _ _ _⟩
  | shr d src =>
    refine lift (commitsRegister_of rfl rfl ?_)
    rintro o t ht ho
    obtain rfl := Except.ok.inj ht
    exact ⟨_, _, rfl, by simp [FlagsAllowed, Instr.writesZeroSign],
      fun hr _ => Alu.shiftRight_lt (destSource_lt ho hr).1⟩
  | load d m =>
    refine lift (commitsRegister_of rfl rfl ?_)
    rintro o t ht ho
    split at ht
    · obtain rfl := Except.ok.inj ht
      exact ⟨_, s.flags, rfl, by simp [FlagsAllowed, Instr.writesZeroSign], fun _ hm => State.readCell_lt hm _⟩
    · cases ht
  | store v m =>
    have he : exec (.store v m) s = s.complete ((s.dataAddress v m).bind fun o =>
        if s.inBounds o.address then .ok (s.writeCell o.address o.data) else .error .memoryOutOfBounds) := rfl
    cases h : s.dataAddress v m with
    | error e => exact .inl ⟨e, by rw [he, h]; rfl⟩
    | ok o =>
      obtain ⟨hv, hm⟩ := State.dataAddress_eq_ok.mp h
      by_cases hb : s.inBounds o.address = true
      · refine .inr (.inr ⟨o.address, o.data, v, m, rfl, hv, hm, by simpa [State.inBounds] using hb, ?_⟩)
        rw [he, h]
        simp [Except.bind, hb]
      · exact .inl ⟨.memoryOutOfBounds, by rw [he, h]; simp [Except.bind, hb]⟩

end Sys2Proof.Machine
end

