-- ==== Sys2Proof/Laws/PerInstr.lean ====
section
/-! SUPPORT. Per-instruction lemmas over the syntax. -/

namespace Sys2Proof.Laws

/-- A mnemonic as the table spells it selects its operation. -/
theorem selectOp_mnemonic (op : Op) : selectOp op.mnemonic = some op := by cases op <;> decide

/-- The mnemonic an instruction is encoded with selects its operation, folded or not, and the number of its operand
tokens is the one its format asks for (30_encoding.md R73, R79, R95). -/
def MnemonicSelects.Statement (i : Instr) : Prop :=
  selectOp i.op.mnemonic = some i.op ∧ i.operands.length = i.op.operandCount ∧ assemble i.op i.operands = some i

theorem MnemonicSelects.mov (d s : Token) : MnemonicSelects.Statement (.mov d s) := ⟨selectOp_mnemonic _, rfl, rfl⟩
theorem MnemonicSelects.add (d s : Token) : MnemonicSelects.Statement (.add d s) := ⟨selectOp_mnemonic _, rfl, rfl⟩
theorem MnemonicSelects.sub (d s : Token) : MnemonicSelects.Statement (.sub d s) := ⟨selectOp_mnemonic _, rfl, rfl⟩
theorem MnemonicSelects.mul (d s : Token) : MnemonicSelects.Statement (.mul d s) := ⟨selectOp_mnemonic _, rfl, rfl⟩
theorem MnemonicSelects.div (d s : Token) : MnemonicSelects.Statement (.div d s) := ⟨selectOp_mnemonic _, rfl, rfl⟩
theorem MnemonicSelects.and (d s : Token) : MnemonicSelects.Statement (.and d s) := ⟨selectOp_mnemonic _, rfl, rfl⟩
theorem MnemonicSelects.or (d s : Token) : MnemonicSelects.Statement (.or d s) := ⟨selectOp_mnemonic _, rfl, rfl⟩
theorem MnemonicSelects.xor (d s : Token) : MnemonicSelects.Statement (.xor d s) := ⟨selectOp_mnemonic _, rfl, rfl⟩
theorem MnemonicSelects.not (d : Token) : MnemonicSelects.Statement (.not d) := ⟨selectOp_mnemonic _, rfl, rfl⟩
theorem MnemonicSelects.shl (d s : Token) : MnemonicSelects.Statement (.shl d s) := ⟨selectOp_mnemonic _, rfl, rfl⟩
theorem MnemonicSelects.shr (d s : Token) : MnemonicSelects.Statement (.shr d s) := ⟨selectOp_mnemonic _, rfl, rfl⟩
theorem MnemonicSelects.load (d m : Token) : MnemonicSelects.Statement (.load d m) := ⟨selectOp_mnemonic _, rfl, rfl⟩
theorem MnemonicSelects.store (v m : Token) : MnemonicSelects.Statement (.store v m) := ⟨selectOp_mnemonic _, rfl, rfl⟩

end Sys2Proof.Laws
end

