-- ==== Sys2Proof/Tests/Slice0.lean ====
section
/-! SUPPORT. Tests on fixed values, and the witnesses of the obligations' hypotheses. A test's expected values are those
of the row of spec/95_test_vectors.md that its comment names; a decoding test's bytes are written out from the encodings
of 30_encoding.md. -/

namespace Sys2Proof.Tests

open Sys2Proof.Machine

/-! ### Helpers -/

/-- An engine with four registers, the first two set, with given flags and memory. -/
def engine (width r1 r2 : Nat) (f : Flags) (memsize : Nat) (m : Memory) : State :=
  { State.fresh ⟨width, 4, memsize⟩ with regs := [r1, r2, 0, 0], flags := f, mem := m }

/-- Registers, flags, memory and reply after one step that executes a line. -/
def after (line : Text) (s : State) : Option (List Nat × Flags × Memory × Option Reply) :=
  match step (s.submitFirst (.execute line)) with
  | .next t => some (t.regs, t.flags, t.mem, t.reply)
  | .fault _ => none
  | .refused _ => none

/-- The engine of 95_test_vectors.md section 2.9: `new(8, 8, 4)`, `x[k] = 10k`, memory 1, 2, 3, 4. -/
def sample : State :=
  { State.fresh ⟨8, 8, 4⟩ with
    regs := [10, 20, 30, 40, 50, 60, 70, 80], mem := [(0, 1), (1, 2), (2, 3), (3, 4)] }

/-- The sample engine about to execute a line. -/
def about (line : Text) : State := sample.submitFirst (.execute line)

/-! ### Well-formedness: one ill-formed term for each check -/

theorem test_wf_accepts : (Instr.mov [0x52, 0x31] [0x2C, 0x35]).wf = true := by decide
theorem test_wf_accepts_empty_token : (Instr.mov [0x52, 0x31] []).wf = true := by decide
theorem test_wf_refuses_space_in_first : (Instr.not [0x52, 0x20, 0x31]).wf = false := by decide
theorem test_wf_refuses_space_in_second : (Instr.mov [0x52, 0x31] [0x09]).wf = false := by decide
theorem test_wf_refuses_final_comma_in_first : (Instr.add [0x52, 0x31, 0x2C] [0x35]).wf = false := by decide
theorem test_wf_refuses_final_comma_in_second : (Instr.store [0x52, 0x31] [0x35, 0x2C]).wf = false := by decide

/-! ### Decoding: one written-out line for each instruction -/

/-- T4: `MOV<TAB>R1   10`. -/
theorem test_decode_mov :
    decode [0x20, 0x20, 0x4D, 0x4F, 0x56, 0x09, 0x52, 0x31, 0x20, 0x20, 0x20, 0x31, 0x30, 0x20, 0x20] =
      .ok (.mov [0x52, 0x31] [0x31, 0x30]) := by decide
/-- T6: `ADD R1,, 5,,,`. -/
theorem test_decode_add :
    decode [0x41, 0x44, 0x44, 0x20, 0x52, 0x31, 0x2C, 0x2C, 0x20, 0x35, 0x2C, 0x2C, 0x2C] =
      .ok (.add [0x52, 0x31] [0x35]) := by decide
/-- P1 step 6: `SUB R2 R1`. -/
theorem test_decode_sub :
    decode [0x53, 0x55, 0x42, 0x20, 0x52, 0x32, 0x20, 0x52, 0x31] =
      .ok (.sub [0x52, 0x32] [0x52, 0x31]) := by decide
/-- P3 step 10: `mul R1 R1`. -/
theorem test_decode_mul :
    decode [0x6D, 0x75, 0x6C, 0x20, 0x52, 0x31, 0x20, 0x52, 0x31] =
      .ok (.mul [0x52, 0x31] [0x52, 0x31]) := by decide
/-- P3 step 4: `div R1, 0x4`. -/
theorem test_decode_div :
    decode [0x64, 0x69, 0x76, 0x20, 0x52, 0x31, 0x2C, 0x20, 0x30, 0x78, 0x34] =
      .ok (.div [0x52, 0x31] [0x30, 0x78, 0x34]) := by decide
/-- L1: `AND R1 0xAA`. -/
theorem test_decode_and :
    decode [0x41, 0x4E, 0x44, 0x20, 0x52, 0x31, 0x20, 0x30, 0x78, 0x41, 0x41] =
      .ok (.and [0x52, 0x31] [0x30, 0x78, 0x41, 0x41]) := by decide
/-- L5: `OR R1 0xAA`. -/
theorem test_decode_or :
    decode [0x4F, 0x52, 0x20, 0x52, 0x31, 0x20, 0x30, 0x78, 0x41, 0x41] =
      .ok (.or [0x52, 0x31] [0x30, 0x78, 0x41, 0x41]) := by decide
/-- P3 step 11: `XOR R1 R1`. -/
theorem test_decode_xor :
    decode [0x58, 0x4F, 0x52, 0x20, 0x52, 0x31, 0x20, 0x52, 0x31] =
      .ok (.xor [0x52, 0x31] [0x52, 0x31]) := by decide
/-- P1 step 2: `NOT R1`. -/
theorem test_decode_not :
    decode [0x4E, 0x4F, 0x54, 0x20, 0x52, 0x31] =
      .ok (.not [0x52, 0x31]) := by decide
/-- H1: `SHL R1 2`. -/
theorem test_decode_shl :
    decode [0x53, 0x48, 0x4C, 0x20, 0x52, 0x31, 0x20, 0x32] =
      .ok (.shl [0x52, 0x31] [0x32]) := by decide
/-- H10: `SHR R1 1`. -/
theorem test_decode_shr :
    decode [0x53, 0x48, 0x52, 0x20, 0x52, 0x31, 0x20, 0x31] =
      .ok (.shr [0x52, 0x31] [0x31]) := by decide
/-- P2 step 5: `LOAD R3 0`. -/
theorem test_decode_load :
    decode [0x4C, 0x4F, 0x41, 0x44, 0x20, 0x52, 0x33, 0x20, 0x30] =
      .ok (.load [0x52, 0x33] [0x30]) := by decide
/-- T67: `store 7, 0x3`. -/
theorem test_decode_store :
    decode [0x73, 0x74, 0x6F, 0x72, 0x65, 0x20, 0x37, 0x2C, 0x20, 0x30, 0x78, 0x33] =
      .ok (.store [0x37] [0x30, 0x78, 0x33]) := by decide

/-- The words of spec/opcode_table.json, in its order, with the operands of log entry 9. -/
theorem test_table_words :
    [(24, 0x4D4F56), (24, 0x414444), (24, 0x535542), (24, 0x4D554C), (24, 0x444956), (24, 0x414E44), (16, 0x4F52),
      (24, 0x584F52), (24, 0x4E4F54), (24, 0x53484C), (24, 0x534852), (32, 0x4C4F4144), (40, 0x53544F5245)].map
      (fun p => (decodeTableWord p.1 p.2).map Instr.op) = Op.all.map some := by decide

/-- The case bit of a table word is free (mask 0xDF): `mOv`. -/
theorem test_table_word_any_case :
    decodeTableWord 24 0x6D4F76 = some (.mov [0x52, 0x31] [0x30]) := by decide

/-- A word of no row. -/
theorem test_table_word_unknown : decodeTableWord 24 0x4D4F57 = none := by decide

/-- The tags of 30_encoding.md R95 are 0 to 12 in the order of the list. -/
theorem test_tags : Op.all.map Op.tag = List.range 13 := by decide

/-! ### Decoding: errors and their order -/

/-- T8. -/
theorem test_decode_error_comma_inside : decode [0x4D, 0x4F, 0x56, 0x20, 0x52, 0x31, 0x2C, 0x31, 0x30] = .error .invalidOperand := by decide
/-- T12. -/
theorem test_decode_error_no_operand : decode [0x4E, 0x4F, 0x54] = .error .invalidOperand := by decide
/-- T13. -/
theorem test_decode_error_comma_after_mnemonic : decode [0x4D, 0x4F, 0x56, 0x2C, 0x20, 0x52, 0x31, 0x20, 0x31, 0x30] = .error .unknownInstruction := by decide
/-- T15. -/
theorem test_decode_error_nbsp_is_no_space : decode [0x4D, 0x4F, 0x56, 0xA0, 0x52, 0x31, 0x20, 0x31, 0x30] = .error .unknownInstruction := by decide
/-- T19. -/
theorem test_decode_error_empty : decode [] = .error .emptyInstruction := by decide
/-- T21. -/
theorem test_decode_error_whitespace : decode [0x09, 0x0D, 0x0A] = .error .emptyInstruction := by decide
/-- T24. -/
theorem test_decode_error_opcode_before_operands : decode [0x46, 0x4F, 0x4F, 0x20, 0x52, 0x39, 0x20, 0x7A, 0x7A] = .error .unknownInstruction := by decide
/-- T25. -/
theorem test_decode_error_count_before_operands : decode [0x41, 0x44, 0x44, 0x20, 0x52, 0x39] = .error .invalidOperand := by decide

/-! ### One step of each instruction -/

/-- M3: `MOV R1 300`. -/
theorem test_mov_masks_literal_keeps_flags :
    after [0x4D, 0x4F, 0x56, 0x20, 0x52, 0x31, 0x20, 0x33, 0x30, 0x30] (engine 8 7 0 ⟨true, false, false, true⟩ 0 []) =
      some ([44, 0, 0, 0], ⟨true, false, false, true⟩, [], some .ok) := by decide
/-- M4: `MOV R1 R2`. -/
theorem test_mov_register :
    after [0x4D, 0x4F, 0x56, 0x20, 0x52, 0x31, 0x20, 0x52, 0x32] (engine 8 7 200 ⟨false, false, true, false⟩ 0 []) =
      some ([200, 200, 0, 0], ⟨false, false, true, false⟩, [], some .ok) := by decide
/-- A6: `ADD R1 128`. -/
theorem test_add_carry_and_overflow :
    after [0x41, 0x44, 0x44, 0x20, 0x52, 0x31, 0x20, 0x31, 0x32, 0x38] (engine 8 128 0 ⟨false, false, false, false⟩ 0 []) =
      some ([0, 0, 0, 0], ⟨true, true, true, false⟩, [], some .ok) := by decide
/-- A21: `ADD R1 6`. -/
theorem test_add_at_width_3 :
    after [0x41, 0x44, 0x44, 0x20, 0x52, 0x31, 0x20, 0x36] (engine 3 5 0 ⟨false, false, false, false⟩ 0 []) =
      some ([3, 0, 0, 0], ⟨false, true, true, false⟩, [], some .ok) := by decide
/-- S1: `SUB R1 2`. -/
theorem test_sub_borrow :
    after [0x53, 0x55, 0x42, 0x20, 0x52, 0x31, 0x20, 0x32] (engine 8 1 0 ⟨false, false, false, false⟩ 0 []) =
      some ([255, 0, 0, 0], ⟨false, true, false, true⟩, [], some .ok) := by decide
/-- S6: `SUB R1 255`. -/
theorem test_sub_overflow :
    after [0x53, 0x55, 0x42, 0x20, 0x52, 0x31, 0x20, 0x32, 0x35, 0x35] (engine 8 127 0 ⟨false, false, false, false⟩ 0 []) =
      some ([128, 0, 0, 0], ⟨false, true, true, true⟩, [], some .ok) := by decide
/-- U2: `MUL R1 16`. -/
theorem test_mul_low_word_keeps_carry :
    after [0x4D, 0x55, 0x4C, 0x20, 0x52, 0x31, 0x20, 0x31, 0x36] (engine 8 16 0 ⟨false, true, true, false⟩ 0 []) =
      some ([0, 0, 0, 0], ⟨true, true, true, false⟩, [], some .ok) := by decide
/-- U5: `MUL R1 3`. -/
theorem test_mul_sign :
    after [0x4D, 0x55, 0x4C, 0x20, 0x52, 0x31, 0x20, 0x33] (engine 8 128 0 ⟨false, false, false, false⟩ 0 []) =
      some ([128, 0, 0, 0], ⟨false, false, false, true⟩, [], some .ok) := by decide
/-- V6: `DIV R1 3`. -/
theorem test_div_is_unsigned :
    after [0x44, 0x49, 0x56, 0x20, 0x52, 0x31, 0x20, 0x33] (engine 8 246 0 ⟨false, false, false, false⟩ 0 []) =
      some ([82, 0, 0, 0], ⟨false, false, false, false⟩, [], some .ok) := by decide
/-- V11: `DIV R1 256`. -/
theorem test_div_by_masked_zero :
    after [0x44, 0x49, 0x56, 0x20, 0x52, 0x31, 0x20, 0x32, 0x35, 0x36] (engine 8 10 0 ⟨true, false, false, true⟩ 0 []) =
      some ([10, 0, 0, 0], ⟨true, false, false, true⟩, [], some (.err .divisionByZero)) := by decide
/-- L1: `AND R1 0xAA`. -/
theorem test_and_literal :
    after [0x41, 0x4E, 0x44, 0x20, 0x52, 0x31, 0x20, 0x30, 0x78, 0x41, 0x41] (engine 8 204 0 ⟨false, true, true, false⟩ 0 []) =
      some ([136, 0, 0, 0], ⟨false, true, true, true⟩, [], some .ok) := by decide
/-- L4: `AND R1 0x1FF`. -/
theorem test_and_masks_literal :
    after [0x41, 0x4E, 0x44, 0x20, 0x52, 0x31, 0x20, 0x30, 0x78, 0x31, 0x46, 0x46] (engine 8 204 0 ⟨false, false, false, false⟩ 0 []) =
      some ([204, 0, 0, 0], ⟨false, false, false, true⟩, [], some .ok) := by decide
/-- L5: `OR R1 0xAA`. -/
theorem test_or_literal :
    after [0x4F, 0x52, 0x20, 0x52, 0x31, 0x20, 0x30, 0x78, 0x41, 0x41] (engine 8 204 0 ⟨false, true, true, false⟩ 0 []) =
      some ([238, 0, 0, 0], ⟨false, true, true, true⟩, [], some .ok) := by decide
/-- L6: `OR R1 0`. -/
theorem test_or_zero :
    after [0x4F, 0x52, 0x20, 0x52, 0x31, 0x20, 0x30] (engine 8 0 0 ⟨false, false, false, true⟩ 0 []) =
      some ([0, 0, 0, 0], ⟨true, false, false, false⟩, [], some .ok) := by decide
/-- L8: `XOR R1 0xAA`. -/
theorem test_xor_literal :
    after [0x58, 0x4F, 0x52, 0x20, 0x52, 0x31, 0x20, 0x30, 0x78, 0x41, 0x41] (engine 8 204 0 ⟨false, true, true, false⟩ 0 []) =
      some ([102, 0, 0, 0], ⟨false, true, true, false⟩, [], some .ok) := by decide
/-- L9: `XOR R1 R1`. -/
theorem test_xor_self :
    after [0x58, 0x4F, 0x52, 0x20, 0x52, 0x31, 0x20, 0x52, 0x31] (engine 8 204 0 ⟨false, true, false, false⟩ 0 []) =
      some ([0, 0, 0, 0], ⟨true, true, false, false⟩, [], some .ok) := by decide
/-- L11: `NOT R1`. -/
theorem test_not_keeps_carry_and_overflow :
    after [0x4E, 0x4F, 0x54, 0x20, 0x52, 0x31] (engine 8 5 0 ⟨false, true, true, false⟩ 0 []) =
      some ([250, 0, 0, 0], ⟨false, true, true, true⟩, [], some .ok) := by decide
/-- L22: `NOT R1`. -/
theorem test_not_at_width_3 :
    after [0x4E, 0x4F, 0x54, 0x20, 0x52, 0x31] (engine 3 5 0 ⟨false, false, false, false⟩ 0 []) =
      some ([2, 0, 0, 0], ⟨false, false, false, false⟩, [], some .ok) := by decide
/-- H2: `SHL R1 1`. -/
theorem test_shl_loses_bits :
    after [0x53, 0x48, 0x4C, 0x20, 0x52, 0x31, 0x20, 0x31] (engine 8 129 0 ⟨false, true, false, false⟩ 0 []) =
      some ([2, 0, 0, 0], ⟨false, true, false, false⟩, [], some .ok) := by decide
/-- H6: `SHL R1 255`. -/
theorem test_shl_whole_amount :
    after [0x53, 0x48, 0x4C, 0x20, 0x52, 0x31, 0x20, 0x32, 0x35, 0x35] (engine 8 255 0 ⟨false, false, false, false⟩ 0 []) =
      some ([0, 0, 0, 0], ⟨true, false, false, false⟩, [], some .ok) := by decide
/-- H10: `SHR R1 1`. -/
theorem test_shr_is_logical :
    after [0x53, 0x48, 0x52, 0x20, 0x52, 0x31, 0x20, 0x31] (engine 8 129 0 ⟨false, true, true, false⟩ 0 []) =
      some ([64, 0, 0, 0], ⟨false, true, true, false⟩, [], some .ok) := by decide
/-- H12: `SHR R1 8`. -/
theorem test_shr_by_width :
    after [0x53, 0x48, 0x52, 0x20, 0x52, 0x31, 0x20, 0x38] (engine 8 255 0 ⟨false, false, false, false⟩ 0 []) =
      some ([0, 0, 0, 0], ⟨true, false, false, false⟩, [], some .ok) := by decide
/-- X6: `LOAD R1 R1`. -/
theorem test_load_through_destination :
    after [0x4C, 0x4F, 0x41, 0x44, 0x20, 0x52, 0x31, 0x20, 0x52, 0x31] (engine 8 2 0 ⟨false, false, false, false⟩ 4 [(0, 1), (1, 2), (2, 33), (3, 4)]) =
      some ([33, 0, 0, 0], ⟨false, false, false, false⟩, [(0, 1), (1, 2), (2, 33), (3, 4)], some .ok) := by decide
/-- X12: `LOAD R1 260`. -/
theorem test_load_masks_address :
    after [0x4C, 0x4F, 0x41, 0x44, 0x20, 0x52, 0x31, 0x20, 0x32, 0x36, 0x30] (engine 8 9 0 ⟨false, false, false, false⟩ 5 [(0, 5), (1, 6), (2, 7), (3, 8), (4, 77)]) =
      some ([77, 0, 0, 0], ⟨false, false, false, false⟩, [(0, 5), (1, 6), (2, 7), (3, 8), (4, 77)], some .ok) := by decide
/-- X9: `STORE 300 1`. -/
theorem test_store_literal :
    after [0x53, 0x54, 0x4F, 0x52, 0x45, 0x20, 0x33, 0x30, 0x30, 0x20, 0x31] (engine 8 9 0 ⟨false, false, false, false⟩ 4 []) =
      some ([9, 0, 0, 0], ⟨false, false, false, false⟩, [(1, 44)], some .ok) := by decide
/-- X1: `STORE R1 4`. -/
theorem test_store_one_past_the_end :
    after [0x53, 0x54, 0x4F, 0x52, 0x45, 0x20, 0x52, 0x31, 0x20, 0x34] (engine 8 9 0 ⟨true, true, false, false⟩ 4 []) =
      some ([9, 0, 0, 0], ⟨true, true, false, false⟩, [], some (.err .memoryOutOfBounds)) := by decide

/-! ### Errors of operands and their order -/

/-- T26: `ADD R9 zz`. -/
theorem test_error_operand_1_before_operand_2 :
    after [0x41, 0x44, 0x44, 0x20, 0x52, 0x39, 0x20, 0x7A, 0x7A] sample = some (sample.regs, sample.flags, sample.mem, some (.err .unknownRegister)) := by decide
/-- T35: `STORE zz R9`. -/
theorem test_error_store_data_before_address :
    after [0x53, 0x54, 0x4F, 0x52, 0x45, 0x20, 0x7A, 0x7A, 0x20, 0x52, 0x39] sample = some (sample.regs, sample.flags, sample.mem, some (.err .invalidOperand)) := by decide
/-- T40: `LOAD R9 99`. -/
theorem test_error_operands_before_bounds :
    after [0x4C, 0x4F, 0x41, 0x44, 0x20, 0x52, 0x39, 0x20, 0x39, 0x39] sample = some (sample.regs, sample.flags, sample.mem, some (.err .unknownRegister)) := by decide
/-- T18: `ADD , 5`. -/
theorem test_error_empty_destination :
    after [0x41, 0x44, 0x44, 0x20, 0x2C, 0x20, 0x35] sample = some (sample.regs, sample.flags, sample.mem, some (.err .unknownRegister)) := by decide
/-- T59: `MOV R1 R02`. -/
theorem test_error_leading_zero_in_register :
    after [0x4D, 0x4F, 0x56, 0x20, 0x52, 0x31, 0x20, 0x52, 0x30, 0x32] sample = some (sample.regs, sample.flags, sample.mem, some (.err .unknownRegister)) := by decide
/-- T64: `MOV R1 PC`. -/
theorem test_error_program_counter_is_no_operand :
    after [0x4D, 0x4F, 0x56, 0x20, 0x52, 0x31, 0x20, 0x50, 0x43] sample = some (sample.regs, sample.flags, sample.mem, some (.err .invalidOperand)) := by decide
/-- T48: `MOV R1 0X1F`. -/
theorem test_error_uppercase_hex_prefix :
    after [0x4D, 0x4F, 0x56, 0x20, 0x52, 0x31, 0x20, 0x30, 0x58, 0x31, 0x46] sample = some (sample.regs, sample.flags, sample.mem, some (.err .invalidOperand)) := by decide

/-! ### Construction, dump, codes -/

/-- N1 to N3. -/
theorem test_construct_refuses :
    construct 0 8 4 = .error .invalidConfiguration ∧ construct 8 0 4 = .error .invalidConfiguration ∧
      construct 0 0 0 = .error .invalidConfiguration := by decide

/-- N6, the model's reset state. -/
theorem test_construct_reset : construct 8 8 4 = .ok State.reset := by decide

/-- N4, N5: no memory, and the smallest engine. -/
theorem test_construct_accepts :
    construct 8 8 0 = .ok (State.fresh ⟨8, 8, 0⟩) ∧ construct 1 1 0 = .ok (State.fresh ⟨1, 1, 0⟩) := by decide

/-- G2: 12 is `0C` and `00001100` at width 8. -/
theorem test_dump_view :
    (engine 8 12 0 Flags.cleared 0 []).view 1 =
      { name := [0x52, 0x31], magnitude := 12, decimal := [0x31, 0x32], hex := [0x30, 0x43],
        binary := [0x30, 0x30, 0x30, 0x30, 0x31, 0x31, 0x30, 0x30] } := by decide

/-- G4: `ceil(5/4) = 2` hex digits and exactly 5 binary digits at width 5. -/
theorem test_dump_width_5 :
    hexText 5 21 = [0x31, 0x35] ∧ binaryText 5 21 = [0x31, 0x30, 0x31, 0x30, 0x31] := by decide

/-- G6: 0xABC at width 12, and the decimal 2748. -/
theorem test_dump_width_12 :
    hexText 12 2748 = [0x41, 0x42, 0x43] ∧ decimalText 2748 = [0x32, 0x37, 0x34, 0x38] := by decide

/-- The codes of 60_exceptions.md R237. -/
theorem test_error_codes :
    [ExecutionError.emptyInstruction, .unknownInstruction, .unknownRegister, .invalidOperand, .divisionByZero,
      .memoryOutOfBounds].map errorCode = [1, 2, 3, 4, 5, 6] ∧ Reply.ok.code = some 0 := by decide

/-- F2 to F5. -/
theorem test_masking :
    Alu.toUnsignedMasked 260 8 = 4 ∧ Alu.toUnsignedMasked (-1) 8 = 255 ∧ Alu.toUnsignedMasked (-129) 8 = 127 ∧
      Alu.toUnsignedMasked 5 1 = 1 := by decide

/-- F6, F7, F9. -/
theorem test_to_signed :
    Alu.toSigned 128 8 = -128 ∧ Alu.toSigned 127 8 = 127 ∧ Alu.toSigned 1 1 = -1 ∧ Alu.toSigned 4 3 = -4 := by decide

/-! ### Witnesses: states and operands that meet the hypotheses of the obligations

One theorem for each obligation that has hypotheses, named after it, with a case for each of its clauses; the bounds
are at the ends of their ranges. -/

/-- `R1`. -/
abbrev r1 : Token := [0x52, 0x31]
/-- `R2`. -/
abbrev r2 : Token := [0x52, 0x32]
/-- `R8`, the sample engine's last register. -/
abbrev r8 : Token := [0x52, 0x38]
/-- `R9`, no register of the sample engine. -/
abbrev r9 : Token := [0x52, 0x39]
/-- `zz`, no literal. -/
abbrev zz : Token := [0x7A, 0x7A]
/-- An engine of the sample's registers without memory. -/
def bare : State := { sample with cfg := ⟨8, 8, 0⟩, mem := [] }
/-- The smallest engine with a cell. -/
def tiny : State := State.fresh ⟨1, 1, 1⟩

theorem key_r1 : IsKey sample r1 1 := ⟨by decide, by decide, by simp [keyName, shortestDecimal, digitChars]⟩
theorem key_r2 : IsKey sample r2 2 := ⟨by decide, by decide, by simp [keyName, shortestDecimal, digitChars]⟩
theorem key_r8 : IsKey sample r8 8 := ⟨by decide, by decide, by simp [keyName, shortestDecimal, digitChars]⟩
theorem key_bare : IsKey bare r1 1 := ⟨by decide, by decide, by simp [keyName, shortestDecimal, digitChars]⟩

/-- A single digit is a literal. -/
theorem literal_digit (d : Nat) (h : d < 10) : IsLiteral [BitVec.ofNat 8 (48 + d)] d :=
  .inl ⟨[d], by simp, by simpa using h, rfl, by simp⟩

theorem value_0 : SourceValue sample [0x30] 0 := .inr ⟨0, literal_digit 0 (by decide), by decide⟩
theorem value_3 : SourceValue sample [0x33] 3 := .inr ⟨3, literal_digit 3 (by decide), by decide⟩
theorem value_4 : SourceValue sample [0x34] 4 := .inr ⟨4, literal_digit 4 (by decide), by decide⟩
theorem value_8 : SourceValue sample [0x38] 8 := .inr ⟨8, literal_digit 8 (by decide), by decide⟩
theorem value_r8 : SourceValue sample r8 80 := .inl ⟨8, key_r8, by decide⟩
theorem value_r1 : SourceValue sample r1 10 := .inl ⟨1, key_r1, by decide⟩

/-- 256, one more than the largest magnitude, has the value 0 at width 8. -/
theorem value_256 : SourceValue sample [0x32, 0x35, 0x36] 0 :=
  .inr ⟨256, .inl ⟨[2, 5, 6], by simp, by simp, by decide, by simp [Nat.ofDigits]⟩, by decide⟩

theorem notKey_r9 : NotKey sample r9 := by
  rintro i ⟨h1, h2, h3⟩
  have h2' : i ≤ 8 := h2
  interval_cases i <;> simp [keyName, shortestDecimal, digitChars] at h3

theorem notKey_of_head {t : Token} (h : t.head? ≠ some 0x52) : NotKey sample t := by
  rintro i ⟨-, -, rfl⟩
  exact h rfl

theorem error_r9 : SourceError sample r9 .unknownRegister := ⟨notKey_r9, .inl ⟨.inl rfl, rfl⟩⟩

theorem error_lower_r1 : SourceError sample [0x72, 0x31] .unknownRegister :=
  ⟨notKey_of_head (by decide), .inl ⟨.inr rfl, rfl⟩⟩

theorem error_zz : SourceError sample zz .invalidOperand := by
  refine ⟨notKey_of_head (by decide), .inr ⟨by decide, by decide, ?_, rfl⟩⟩
  rintro v (⟨ds, h1, h2, h3, -⟩ | ⟨cs, ds, -, -, h, -⟩)
  · cases ds with
    | nil => exact h1 rfl
    | cons d ds =>
      have hd := h2 d (by simp)
      simp only [digitChars, List.map_cons, List.cons.injEq] at h3
      have h := h3.1
      interval_cases d <;> simp at h
  · simp at h

theorem sample_inv : sample.Inv :=
  ⟨by decide, by decide, by decide, by decide, by decide, by decide, by decide⟩

/-- `NOT R1` decodes. -/
theorem witness_StepRunsTheDecodedInstruction :
    (about [0x4E, 0x4F, 0x54, 0x20, 0x52, 0x31]).cfg.wf = true ∧
    (about [0x4E, 0x4F, 0x54, 0x20, 0x52, 0x31]).pending = [.execute [0x4E, 0x4F, 0x54, 0x20, 0x52, 0x31]] ∧
    decode [0x4E, 0x4F, 0x54, 0x20, 0x52, 0x31] = .ok (.not r1) := by decide

/-- `NOT` alone does not. -/
theorem witness_StepReturnsTheDecodersError :
    (about [0x4E, 0x4F, 0x54]).cfg.wf = true ∧ (about [0x4E, 0x4F, 0x54]).pending = [.execute [0x4E, 0x4F, 0x54]] ∧
    decode [0x4E, 0x4F, 0x54] = .error .invalidOperand := by decide

theorem witness_FetchWordRunsTheTableInstruction :
    State.reset.cfg.wf = true ∧ decodeTableWord 24 0x4E4F54 = some (.not r1) := by decide

theorem witness_TheEngineNeverStops :
    (State.fresh ⟨1, 1, 0⟩).cfg.wf = true ∧ (State.fresh ⟨0, 1, 0⟩).cfg.wf = false ∧
    (State.fresh ⟨1, 0, 0⟩).cfg.wf = false := by decide

theorem witness_EmptyLineIsEmptyInstruction :
    (about []).cfg.wf = true ∧ (about []).pending = [.execute []] ∧ (∀ b ∈ ([] : Text), IsWhitespace b) ∧
    (∀ b ∈ ([0x09, 0x0D, 0x20] : Text), IsWhitespace b) ∧ (∃ b ∈ ([0x20, 0x2C] : Text), ¬ IsWhitespace b) := by
  refine ⟨by decide, rfl, by simp, by simp [IsWhitespace], 0x2C, by simp, by simp [IsWhitespace]⟩

/-- `MOVE R1`: one letter more than a mnemonic. -/
theorem witness_UnknownOpcodeIsUnknownInstruction :
    (about [0x4D, 0x4F, 0x56, 0x45, 0x20, 0x52, 0x31]).cfg.wf = true ∧
    (about [0x4D, 0x4F, 0x56, 0x45, 0x20, 0x52, 0x31]).pending =
      [.execute [0x4D, 0x4F, 0x56, 0x45, 0x20, 0x52, 0x31]] ∧
    tokens [0x4D, 0x4F, 0x56, 0x45, 0x20, 0x52, 0x31] = [[0x4D, 0x4F, 0x56, 0x45], r1] ∧
    ∀ op : Op, upper [0x4D, 0x4F, 0x56, 0x45] ≠ op.mnemonic :=
  ⟨by decide, rfl, by decide, fun op => by cases op <;> decide⟩

/-- `mov R1`: one operand too few. -/
theorem witness_WrongOperandCountIsInvalidOperand :
    (about [0x6D, 0x6F, 0x76, 0x20, 0x52, 0x31]).cfg.wf = true ∧
    (about [0x6D, 0x6F, 0x76, 0x20, 0x52, 0x31]).pending = [.execute [0x6D, 0x6F, 0x76, 0x20, 0x52, 0x31]] ∧
    tokens [0x6D, 0x6F, 0x76, 0x20, 0x52, 0x31] = [[0x6D, 0x6F, 0x76], r1] ∧
    upper [0x6D, 0x6F, 0x76] = Op.mov.mnemonic ∧ [r1].length ≠ Op.mov.operandCount := by decide

theorem witness_TokensAreSeparatedByAnyWhitespace :
    (∀ b ∈ ([0x20] : Text), IsWhitespace b) ∧ (∀ b ∈ ([0x0D, 0x0A] : Text), IsWhitespace b) ∧
    r1 ≠ [] ∧ (∀ b ∈ r1, ¬ IsWhitespace b) ∧
    (∀ p ∈ ([([0x09, 0x20], r2)] : List (Text × Token)),
      p.1 ≠ [] ∧ (∀ b ∈ p.1, IsWhitespace b) ∧ p.2 ≠ [] ∧ (∀ b ∈ p.2, ¬ IsWhitespace b)) := by
  simp [IsWhitespace]

theorem witness_DecodeEncodeIsTheInstruction :
    (Instr.mov r1 []).wf = true ∧ (Instr.not []).wf = true ∧ (Instr.store [0x2C, 0x35] r9).wf = true := by decide

theorem witness_DecodedInstructionsAreWellFormed :
    decode [0x4E, 0x4F, 0x54, 0x20, 0x52, 0x31, 0x2C] = .ok (.not r1) := by decide

theorem witness_BadDestinationIsUnknownRegister :
    (Instr.mov r9 [0x30]).destination? = some r9 ∧ NotKey sample r9 ∧
    (Instr.not [0x35]).destination? = some [0x35] ∧ NotKey sample [0x35] :=
  ⟨rfl, notKey_r9, rfl, notKey_of_head (by decide)⟩

theorem witness_BadSecondOperandIsReturned :
    ((Instr.div r8 zz).destination? = some r8 ∧ (Instr.div r8 zz).second? = some zz ∧ IsKey sample r8 8 ∧
      SourceError sample zz .invalidOperand) ∧
    ((Instr.load r1 r9).destination? = some r1 ∧ (Instr.load r1 r9).second? = some r9 ∧ IsKey sample r1 1 ∧
      SourceError sample r9 .unknownRegister) ∧
    (SourceValue sample [0x33] 3 ∧ SourceError sample [0x72, 0x31] .unknownRegister) :=
  ⟨⟨rfl, rfl, key_r8, error_zz⟩, ⟨rfl, rfl, key_r1, error_r9⟩, value_3, error_lower_r1⟩

theorem witness_BadStoreDataIsReturned :
    SourceError sample zz .invalidOperand ∧ SourceError sample r9 .unknownRegister := ⟨error_zz, error_r9⟩

theorem witness_MovWritesTheSource : IsKey sample r8 8 ∧ SourceValue sample [0x32, 0x35, 0x36] 0 :=
  ⟨key_r8, value_256⟩

theorem witness_AddWritesSumAndFlags :
    IsKey sample r1 1 ∧ SourceValue sample r8 80 ∧ 10 = sample.readReg 1 ∧ 90 = (10 + 80) % 2 ^ sample.cfg.width :=
  ⟨key_r1, value_r8, by decide, by decide⟩

theorem witness_SubWritesDifferenceAndFlags :
    IsKey sample r1 1 ∧ SourceValue sample r8 80 ∧ 10 = sample.readReg 1 ∧
    ((186 : Nat) : Int) = (((10 : Nat) : Int) - ((80 : Nat) : Int)) % (2 : Int) ^ sample.cfg.width :=
  ⟨key_r1, value_r8, by decide, by decide⟩

theorem witness_MulWritesLowWord :
    IsKey sample r1 1 ∧ SourceValue sample r8 80 ∧ 10 = sample.readReg 1 ∧ 32 = (10 * 80) % 2 ^ sample.cfg.width :=
  ⟨key_r1, value_r8, by decide, by decide⟩

theorem witness_DivWritesQuotient :
    IsKey sample r8 8 ∧ SourceValue sample [0x33] 3 ∧ 80 = sample.readReg 8 ∧ 0 < 3 ∧ 26 * 3 ≤ 80 ∧ 80 < (26 + 1) * 3 :=
  ⟨key_r8, value_3, by decide, by decide, by decide, by decide⟩

theorem witness_AndWritesEachBit :
    IsKey sample r1 1 ∧ SourceValue sample [0x33] 3 ∧ 10 = sample.readReg 1 ∧
    ∀ j, (2 : Nat).testBit j = ((10 : Nat).testBit j && (3 : Nat).testBit j) :=
  ⟨key_r1, value_3, by decide, fun j => Nat.testBit_and 10 3 j⟩

theorem witness_OrWritesEachBit :
    IsKey sample r1 1 ∧ SourceValue sample [0x33] 3 ∧ 10 = sample.readReg 1 ∧
    ∀ j, (11 : Nat).testBit j = ((10 : Nat).testBit j || (3 : Nat).testBit j) :=
  ⟨key_r1, value_3, by decide, fun j => Nat.testBit_or 10 3 j⟩

theorem witness_XorWritesEachBit :
    IsKey sample r1 1 ∧ SourceValue sample [0x33] 3 ∧ 10 = sample.readReg 1 ∧
    ∀ j, (9 : Nat).testBit j = ((10 : Nat).testBit j != (3 : Nat).testBit j) :=
  ⟨key_r1, value_3, by decide, fun j => Nat.testBit_xor 10 3 j⟩

theorem witness_NotInvertsEachBit :
    IsKey sample r1 1 ∧ 10 = sample.readReg 1 ∧ 10 < 2 ^ sample.cfg.width ∧
    ∀ j, (245 : Nat).testBit j = (decide (j < sample.cfg.width) && !(10 : Nat).testBit j) := by
  refine ⟨key_r1, by decide, by decide, fun j => ?_⟩
  by_cases h : j < 8
  · interval_cases j <;> decide
  · have h245 : (245 : Nat).testBit j = false :=
      Nat.testBit_lt_two_pow (lt_of_lt_of_le (by decide : 245 < 2 ^ 8) (Nat.pow_le_pow_right (by decide) (not_lt.mp h)))
    have hw : sample.cfg.width = 8 := rfl
    simp [h245, hw, h]

/-- A result, and an amount equal to the width. -/
theorem witness_ShlWritesShiftedWord :
    (IsKey sample r1 1 ∧ SourceValue sample [0x33] 3 ∧ 10 = sample.readReg 1 ∧ 80 = (10 * 2 ^ 3) % 2 ^ sample.cfg.width) ∧
    (SourceValue sample [0x38] 8 ∧ 0 = (10 * 2 ^ 8) % 2 ^ sample.cfg.width ∧ sample.cfg.width ≤ 8) :=
  ⟨⟨key_r1, value_3, by decide, by decide⟩, value_8, by decide, by decide⟩

/-- A result, and an amount equal to the width. -/
theorem witness_ShrWritesShiftedWord :
    (IsKey sample r1 1 ∧ SourceValue sample [0x33] 3 ∧ 10 = sample.readReg 1 ∧ 10 < 2 ^ sample.cfg.width ∧ 1 = 10 / 2 ^ 3) ∧
    (SourceValue sample [0x38] 8 ∧ 0 = 10 / 2 ^ 8 ∧ sample.cfg.width ≤ 8) :=
  ⟨⟨key_r1, value_3, by decide, by decide, by decide⟩, value_8, by decide, by decide⟩

theorem witness_LoadWritesTheCell :
    IsKey sample r8 8 ∧ SourceValue sample [0x33] 3 ∧ 3 < sample.cfg.memsize := ⟨key_r8, value_3, by decide⟩

theorem witness_StoreWritesExactlyOneCell :
    sample.mem.wf = true ∧ SourceValue sample r8 80 ∧ SourceValue sample [0x33] 3 ∧ 3 < sample.cfg.memsize :=
  ⟨by decide, value_r8, value_3, by decide⟩

/-- A division by zero, and a division that succeeds. -/
theorem witness_DivisionByZeroExactly :
    (exec (.div r1 [0x30]) sample = .next (sample.erred .divisionByZero) ∧ IsKey sample r1 1 ∧
      SourceValue sample [0x30] 0) ∧
    (exec (.div r1 [0x33]) sample =
      .next { sample with regs := [3, 20, 30, 40, 50, 60, 70, 80], reply := some .ok }) :=
  ⟨⟨rfl, key_r1, value_0⟩, rfl⟩

/-- One past the end, and the last cell. -/
theorem witness_MemoryOutOfBoundsExactly :
    (exec (.load r1 [0x34]) sample = .next (sample.erred .memoryOutOfBounds) ∧ IsKey sample r1 1 ∧
      SourceValue sample [0x34] 4 ∧ sample.cfg.memsize ≤ 4) ∧
    (exec (.store r1 [0x34]) sample = .next (sample.erred .memoryOutOfBounds) ∧ SourceValue sample r1 10) ∧
    (exec (.load r1 [0x33]) sample =
      .next { sample with regs := [4, 20, 30, 40, 50, 60, 70, 80], reply := some .ok }) :=
  ⟨⟨rfl, key_r1, value_4, by decide⟩, ⟨rfl, value_r1⟩, rfl⟩

theorem witness_NoMemoryMeansAlwaysOutOfBounds :
    (1 ≤ 1) ∧ bare.cfg.memsize = 0 ∧ IsKey bare r1 1 ∧ SourceValue bare r1 10 ∧ SourceValue bare [0x30] 0 :=
  ⟨le_refl 1, rfl, key_bare, .inl ⟨1, key_bare, by decide⟩, .inr ⟨0, literal_digit 0 (by decide), by decide⟩⟩

/-- `DIV R1 0`. -/
theorem witness_AnErrorChangesNothing :
    (about [0x44, 0x49, 0x56, 0x20, 0x52, 0x31, 0x20, 0x30]).pending =
      [.execute [0x44, 0x49, 0x56, 0x20, 0x52, 0x31, 0x20, 0x30]] ∧
    step (about [0x44, 0x49, 0x56, 0x20, 0x52, 0x31, 0x20, 0x30]) = .next (sample.erred .divisionByZero) ∧
    (sample.erred .divisionByZero).reply = some (.err .divisionByZero) := ⟨rfl, rfl, rfl⟩

theorem witness_ExecuteReturnsOkOrAnError :
    (about [0x00]).cfg.wf = true ∧ (about [0x00]).pending = [.execute [0x00]] := by decide

theorem witness_SignedDecodeAndMaskingAreInverse :
    1 ≤ 1 ∧ 1 < 2 ^ 1 ∧ -(2 : Int) ^ (1 - 1) ≤ -1 ∧ (-1 : Int) ≤ (2 : Int) ^ (1 - 1) - 1 ∧
    0 < 2 ^ 1 ∧ -(2 : Int) ^ (1 - 1) ≤ 0 ∧ (0 : Int) ≤ (2 : Int) ^ (1 - 1) - 1 := by decide

theorem witness_OverflowIsSignedOutOfRange : 1 ≤ 1 ∧ 1 < 2 ^ 1 ∧ (0 : Nat) < 2 ^ 1 := by decide

/-- One bit; `ADD R1 3` on the sample engine; `NOT R1` on the smallest engine. -/
theorem witness_FlagRelations :
    (1 ≤ 1 ∧ 1 < 2 ^ 1 ∧ (Flags.afterSub 1 1 1).zero = true ∧ (Flags.afterAdd 1 1 1).carry = true ∧
      (Flags.afterAdd 1 1 1).zero = true) ∧
    (sample.Inv ∧ (Instr.add r1 [0x33]).writesZeroSign = true ∧
      ∃ t, exec (.add r1 [0x33]) sample = .next t ∧ t.reply = some .ok) ∧
    (tiny.Inv ∧ tiny.cfg.width = 1 ∧ (Instr.not r1).writesZeroSign = true ∧
      ∃ t, exec (.not r1) tiny = .next t ∧ t.reply = some .ok) :=
  ⟨by decide, ⟨sample_inv, rfl, _, rfl, rfl⟩,
    ⟨by decide, by decide, by decide, by decide, by decide, by decide, by decide⟩, rfl, rfl, _, rfl, rfl⟩

/-- The largest magnitudes of one bit; `ADD R1 3`, `SUB R1 3`. -/
theorem witness_AddThenSubRestoresTheRegister :
    1 < 2 ^ 1 ∧ (0 : Nat) < 2 ^ 1 ∧
    sample.Inv ∧ IsKey sample r1 1 ∧ r1 ≠ [0x33] ∧
    exec (.add r1 [0x33]) sample =
      .next { sample with regs := [13, 20, 30, 40, 50, 60, 70, 80], reply := some .ok } ∧
    exec (.sub r1 [0x33]) { sample with regs := [13, 20, 30, 40, 50, 60, 70, 80], reply := some .ok } =
      .next { sample with reply := some .ok } :=
  ⟨by decide, by decide, sample_inv, key_r1, by decide, rfl, rfl⟩

theorem witness_NegationIdiom : 1 ≤ 1 ∧ (0 : Nat) < 2 ^ 1 ∧ 1 < 2 ^ 1 ∧ 1 = 2 ^ (1 - 1) := by decide

theorem witness_AluIdentities : 1 ≤ 1 ∧ 1 < 2 ^ 1 ∧ (0 : Nat) < 2 ^ 1 ∧ 0 < 1 := by decide

/-- The cell stored to, and another one. -/
theorem witness_LoadReadsTheLastStore :
    sample.Inv ∧ SourceValue sample r8 80 ∧ SourceValue sample [0x33] 3 ∧ 3 < sample.cfg.memsize ∧
    exec (.store r8 [0x33]) sample =
      .next { sample with mem := [(0, 1), (1, 2), (2, 3), (3, 80)], reply := some .ok } ∧
    IsKey sample r1 1 ∧ SourceValue sample [0x30] 0 ∧ 0 < sample.cfg.memsize :=
  ⟨sample_inv, value_r8, value_3, by decide, rfl, key_r1, value_0, by decide⟩

/-- `STORE 1 1` on an engine whose cell 2 has no address of one bit; and a cell past the end. -/
theorem witness_UnreachableCellsStayZero :
    (⟨1, 1, 3⟩ : Config).wf = true ∧
    runFor 1 ((State.fresh ⟨1, 1, 3⟩).submit [.execute [0x53, 0x54, 0x4F, 0x52, 0x45, 0x20, 0x31, 0x20, 0x31]]) =
      .next { State.fresh ⟨1, 1, 3⟩ with mem := [(1, 1)], reply := some .ok } ∧
    2 ^ (1 : Nat) ≤ 2 ∧ 3 ≤ 3 := ⟨by decide, rfl, by decide, by decide⟩

theorem witness_InvariantHoldsAfterConstruction : construct 1 1 0 = .ok (State.fresh ⟨1, 1, 0⟩) := by decide

/-- `NOT R1`. -/
theorem witness_EveryStepKeepsTheInvariant :
    (about [0x4E, 0x4F, 0x54, 0x20, 0x52, 0x31]).Inv ∧
    step (about [0x4E, 0x4F, 0x54, 0x20, 0x52, 0x31]) =
      .next { sample with
        regs := [245, 20, 30, 40, 50, 60, 70, 80], flags := ⟨false, false, false, true⟩, reply := some .ok } :=
  ⟨⟨by decide, by decide, by decide, by decide, by decide, by decide, by decide⟩, rfl⟩

/-- `NOT R1` on the smallest engine, then a dump; `NOT R8` on the sample engine. -/
theorem witness_StoredValuesAreAlwaysInRange :
    ((⟨1, 1, 1⟩ : Config).wf = true ∧
      ∃ t, runFor 2 (tiny.submit [.execute [0x4E, 0x4F, 0x54, 0x20, 0x52, 0x31], .dump]) = .next t ∧ t.regs = [1]) ∧
    (sample.Inv ∧ ∃ t, exec (.not r8) sample = .next t ∧ t.reply = some .ok) :=
  ⟨⟨by decide, _, rfl, by decide⟩, sample_inv, _, rfl, rfl⟩

theorem witness_ProgramCounterIsInert :
    (∃ t, step (about [0x4E, 0x4F, 0x54, 0x20, 0x52, 0x31]) = .next t ∧ t.reply = some .ok) ∧
    (∃ t, runFor 3 (about [0x4E, 0x4F, 0x54]) = .next t ∧ t.pending = []) :=
  ⟨⟨_, rfl, rfl⟩, _, rfl, rfl⟩

theorem witness_ConfigurationIsFixed :
    ∃ t, step (about [0x4E, 0x4F, 0x54, 0x20, 0x52, 0x31]) = .next t ∧ t.reply = some .ok := ⟨_, rfl, rfl⟩

/-- `ADD R1 3` and the last register; `STORE R8 3` and the cell below it. -/
theorem witness_OnlyTheDestinationChanges :
    (sample.Inv ∧ (∃ t, exec (.add r1 [0x33]) sample = .next t ∧ t.reply = some .ok) ∧ 1 ≤ 8 ∧
      8 ≤ sample.cfg.nregs ∧ (Instr.add r1 [0x33]).destination? ≠ some (keyName 8) ∧
      (Instr.add r1 [0x33]).isStore = false) ∧
    ((∃ t, exec (.store r8 [0x33]) sample = .next t ∧ t.reply = some .ok) ∧ SourceValue sample [0x33] 3 ∧ 2 ≠ 3) :=
  ⟨⟨sample_inv, ⟨_, rfl, rfl⟩, by decide, by decide,
    by simp [Instr.destination?, keyName, shortestDecimal, digitChars], rfl⟩, ⟨_, rfl, rfl⟩, value_3, by decide⟩

theorem witness_OnlyLoadReadsAndOnlyStoreWritesMemory :
    (Instr.load r1 [0x33]).isStore = false ∧ (∃ t, exec (.load r1 [0x33]) sample = .next t ∧ t.reply = some .ok) ∧
    (Instr.store r1 [0x33]).isLoad = false ∧
    (about [0x4E, 0x4F, 0x54]).cfg.wf = true ∧ (about [0x4E, 0x4F, 0x54]).pending = [.execute [0x4E, 0x4F, 0x54]] :=
  ⟨rfl, ⟨_, rfl, rfl⟩, rfl, by decide, rfl⟩

theorem witness_OtherFlagsAreRetained :
    ((∃ t, exec (.mov r1 [0x30]) sample = .next t ∧ t.reply = some .ok) ∧
      (Instr.mov r1 [0x30]).writesZeroSign = false) ∧
    ((∃ t, exec (.mul r1 [0x30]) sample = .next t ∧ t.flags.zero = true) ∧
      (Instr.mul r1 [0x30]).writesCarryOverflow = false) :=
  ⟨⟨⟨_, rfl, rfl⟩, rfl⟩, ⟨_, rfl, rfl⟩, rfl⟩

theorem witness_NothingIsRememberedOfEarlierResults :
    (sample.submit [.dump, .execute []]).pending = .dump :: [.execute []] := by decide

theorem witness_ConstructionIsRefusedExactly : 1 ≤ 1 ∧ ((0 : Nat) = 0 ∨ (1 : Nat) = 0) := by decide

theorem witness_ConstructionGivesTheResetValues : construct 1 1 0 = .ok (State.fresh ⟨1, 1, 0⟩) := by decide

theorem witness_DumpIsAReadOnlyProjection :
    (sample.submit [.dump, .dump]).cfg.wf = true ∧ (sample.submit [.dump, .dump]).pending = .dump :: [.dump] := by
  decide

theorem witness_DumpNamesAndNumerals : 7 < sample.cfg.nregs ∧ sample.readReg (7 + 1) < 2 ^ sample.cfg.width := by
  decide

theorem witness_BinaryRenderingIsTheBits : 7 < sample.cfg.nregs ∧ 7 < sample.cfg.width ∧ 0 < sample.cfg.width := by
  decide

end Sys2Proof.Tests
end

section
/-! SUPPORT. What a step and a run can do, each said once; the shape shared by instructions run in two states. -/

namespace Sys2Proof.Machine

/-! ### One step -/

/-- A step at a pending request serves it, the request taken. -/
theorem step_eq_serve {s : State} {r : Request} {rest : List Request} (hw : s.cfg.wf = true)
    (hp : s.pending = r :: rest) : step s = serve r { s with pending := rest } := by
  simp [step, State.takeRequest, hw, hp]

/-- A step with no request pending changes nothing. -/
theorem step_eq_self {s : State} (hw : s.cfg.wf = true) (hp : s.pending = []) : step s = .next s := by
  simp [step, State.takeRequest, hw, hp]

/-- Everything a step that gives a state can do: wait, or serve the first pending request. -/
theorem step_cases {s t : State} (h : step s = .next t) :
    s.cfg.wf = true ∧ ((s.pending = [] ∧ t = s) ∨
      ∃ r rest, s.pending = r :: rest ∧ serve r { s with pending := rest } = .next t) := by
  by_cases hw : s.cfg.wf = true
  · refine ⟨hw, ?_⟩
    cases hp : s.pending with
    | nil =>
      rw [step_eq_self hw hp] at h
      exact .inl ⟨rfl, (Host.Outcome.next.inj h).symm⟩
    | cons r rest =>
      rw [step_eq_serve hw hp] at h
      exact .inr ⟨r, rest, rfl, h⟩
  · rw [step, if_neg hw] at h
    cases h

/-- Everything a transaction that gives a state can do: hand back a reply and no more, or run the decoded
instruction. -/
theorem serve_cases {r : Request} {s t : State} (h : serve r s = .next t) :
    (∃ p, t = s.answer p) ∨ ∃ line i, r = .execute line ∧ decode line = .ok i ∧ exec i s = .next t := by
  cases r with
  | dump => exact .inl ⟨_, (Host.Outcome.next.inj h).symm⟩
  | execute line =>
    change executeLine line s = .next t at h
    unfold executeLine at h
    split at h
    · exact .inl ⟨_, (Host.Outcome.next.inj h).symm⟩
    · next i hi => exact .inr ⟨line, i, rfl, hi, h⟩

theorem CommitsRegister.exec_eq {i : Instr} {s : State} {k r : Nat} {f : Flags} (h : CommitsRegister i s k r f) :
    exec i s = .next (s.commitResult k r f).returnOk := by
  obtain ⟨_, he, _, _⟩ := h
  exact he

theorem CommitsCell.exec_eq {i : Instr} {s : State} {a x : Nat} (h : CommitsCell i s a x) :
    exec i s = .next (s.writeCell a x).returnOk := by
  obtain ⟨_, _, _, _, _, _, he⟩ := h
  exact he

/-- Everything an instruction that gives a state can do: `exec_cases` with the state it gives. -/
theorem exec_next_cases {i : Instr} {s t : State} (h : exec i s = .next t) :
    (∃ e, t = s.raise e) ∨
    (∃ k r f, CommitsRegister i s k r f ∧ t = (s.commitResult k r f).returnOk) ∨
    (∃ a x, CommitsCell i s a x ∧ t = (s.writeCell a x).returnOk) := by
  rcases exec_cases i s with ⟨e, he⟩ | ⟨k, r, f, hc⟩ | ⟨a, x, hc⟩
  · exact .inl ⟨e, Host.Outcome.next.inj (h.symm.trans he)⟩
  · exact .inr (.inl ⟨k, r, f, hc, Host.Outcome.next.inj (h.symm.trans hc.exec_eq)⟩)
  · exact .inr (.inr ⟨a, x, hc, Host.Outcome.next.inj (h.symm.trans hc.exec_eq)⟩)

/-! ### Runs -/

@[simp] theorem runFor_zero (s : State) : runFor 0 s = .next s := rfl

theorem runFor_succ_of_step {s t : State} (k : Nat) (h : step s = .next t) : runFor (k + 1) s = runFor k t := by
  simp [runFor, h]

/-- What every step keeps, every run keeps. -/
theorem runFor_preserves {P : State → Prop} (hstep : ∀ s t, P s → step s = .next t → P t) {k : Nat} {s t : State}
    (hs : P s) (h : runFor k s = .next t) : P t := by
  induction k generalizing s with
  | zero => exact Host.Outcome.next.inj h ▸ hs
  | succ k ih =>
    rw [runFor] at h
    split at h
    · next u hu => exact ih (hstep s u hs hu) h
    · cases h
    · cases h

/-! ### One instruction in two states -/

/-- The shared shape of the instructions run in two states that resolve the operands alike: when raising an error and
the continuation commute with `f`, so does the instruction. -/
theorem complete_bind_mapNext {α : Type} {f : State → State} {s s' : State} {x : Except ExecutionError α}
    {k k' : α → Except ExecutionError State} (hraise : ∀ e, s'.raise e = f (s.raise e))
    (hk : ∀ o, s'.complete (k' o) = mapNext f (s.complete (k o))) :
    s'.complete (x.bind k') = mapNext f (s.complete (x.bind k)) := by
  cases x with
  | error e => exact congrArg Host.Outcome.next (hraise e)
  | ok o => exact hk o

end Sys2Proof.Machine
end

section
/-! PROOF. The invariant is inductive, and gives the range of the stored values (10_state.md R21). -/

namespace Sys2Proof.Machine

/-! ### The invariant under the updates of the state -/

/-- The invariant speaks of the configuration, the registers, memory and the program counter only. -/
theorem State.Inv.of_eq {s t : State} (h : s.Inv) (hcfg : t.cfg = s.cfg) (hregs : t.regs = s.regs)
    (hmem : t.mem = s.mem) (hpc : t.pc = s.pc) : t.Inv where
  config := hcfg ▸ h.config
  regCount := by rw [hregs, hcfg]; exact h.regCount
  regRange := by rw [hregs, hcfg]; exact h.regRange
  memCanonical := hmem ▸ h.memCanonical
  memBound := by rw [hmem, hcfg]; exact h.memBound
  memRange := by rw [hmem, hcfg]; exact h.memRange
  pcRange := by rw [hpc, hcfg]; exact h.pcRange

theorem State.Inv.answer {s : State} (h : s.Inv) (r : Reply) : (s.answer r).Inv := h.of_eq rfl rfl rfl rfl

theorem State.Inv.submit {s : State} (h : s.Inv) (rs : List Request) : (s.submit rs).Inv := h.of_eq rfl rfl rfl rfl

theorem State.Inv.setPending {s : State} (h : s.Inv) (rs : List Request) : { s with pending := rs }.Inv :=
  h.of_eq rfl rfl rfl rfl

/-- Committing a magnitude to a register keeps the invariant. -/
theorem State.Inv.commitResult {s : State} (h : s.Inv) (k : Nat) {r : Nat} (f : Flags) (hr : r < 2 ^ s.cfg.width) :
    (s.commitResult k r f).Inv where
  config := h.config
  regCount := by simpa using h.regCount
  regRange v hv := by
    rcases List.mem_or_eq_of_mem_set hv with hold | rfl
    · exact h.regRange v hold
    · exact hr
  memCanonical := h.memCanonical
  memBound := h.memBound
  memRange := h.memRange
  pcRange := h.pcRange

/-- Committing a magnitude to a cell below `MEMSIZE` keeps the invariant. -/
theorem State.Inv.writeCell {s : State} (h : s.Inv) {a x : Nat} (ha : a < s.cfg.memsize)
    (hx : x < 2 ^ s.cfg.width) : (s.writeCell a x).Inv where
  config := h.config
  regCount := h.regCount
  regRange := h.regRange
  memCanonical := Memory.wf_write a x h.memCanonical
  memBound c hc := by
    rcases Memory.mem_write hc with rfl | hold
    · exact ha
    · exact h.memBound c hold
  memRange c hc := by
    rcases Memory.mem_write hc with rfl | hold
    · exact hx
    · exact h.memRange c hold
  pcRange := h.pcRange

/-! ### The invariant holds at construction and every step keeps it -/

theorem State.fresh_inv {c : Config} (hc : c.wf = true) : (State.fresh c).Inv where
  config := hc
  regCount := by simp
  regRange v hv := by
    rw [State.fresh_regs] at hv
    rw [List.eq_of_mem_replicate hv]
    exact Nat.two_pow_pos _
  memCanonical := rfl
  memBound := by simp
  memRange := by simp
  pcRange := Nat.two_pow_pos _

theorem exec_preserves_inv {i : Instr} {s t : State} (hs : s.Inv) (h : exec i s = .next t) : t.Inv := by
  rcases exec_next_cases h with ⟨e, rfl⟩ | ⟨k, r, f, ⟨_, _, _, hr⟩, rfl⟩ | ⟨a, x, ⟨_, _, _, hx, _, ha, _⟩, rfl⟩
  · exact hs.answer _
  · exact (hs.commitResult k f (hr hs.regRange hs.memRange)).answer _
  · exact (hs.writeCell ha (State.getValue_lt hs.regRange hx)).answer _

theorem serve_preserves_inv {r : Request} {s t : State} (hs : s.Inv) (h : serve r s = .next t) : t.Inv := by
  rcases serve_cases h with ⟨p, rfl⟩ | ⟨_, i, _, _, hi⟩
  · exact hs.answer p
  · exact exec_preserves_inv hs hi

theorem step_preserves_inv {s t : State} (hs : s.Inv) (h : step s = .next t) : t.Inv := by
  obtain ⟨_, ⟨_, rfl⟩ | ⟨r, rest, _, hr⟩⟩ := step_cases h
  · exact hs
  · exact serve_preserves_inv (hs.setPending rest) hr

theorem runFor_preserves_inv {k : Nat} {s t : State} (hs : s.Inv) (h : runFor k s = .next t) : t.Inv :=
  runFor_preserves (fun _ _ => step_preserves_inv) hs h

/-- The invariant's ranges, read through the accessors. -/
theorem State.Inv.inRange {s : State} (h : s.Inv) : s.InRange :=
  ⟨fun i _ _ => State.readReg_lt h.regRange i, State.readCell_lt h.memRange, h.pcRange⟩

/-- Settles O48: the invariant holds at construction, every step and every instruction keeps it, and it gives the
ranges. -/
theorem storedValuesAreAlwaysInRange : Obligations.StoredValuesAreAlwaysInRange :=
  ⟨fun _ script _ _ hc hrun => (runFor_preserves_inv ((State.fresh_inv hc).submit script) hrun).inRange,
    fun _ _ _ hs h => (exec_preserves_inv hs h).inRange⟩

end Sys2Proof.Machine
end

section
/-! PROOF. The program counter is inert (10_state.md R28). -/

namespace Sys2Proof.Machine

/-! ### Nothing writes it -/

theorem exec_pc {i : Instr} {s t : State} (h : exec i s = .next t) : t.pc = s.pc := by
  rcases exec_next_cases h with ⟨e, rfl⟩ | ⟨k, r, f, _, rfl⟩ | ⟨a, x, _, rfl⟩ <;> simp

theorem serve_pc {r : Request} {s t : State} (h : serve r s = .next t) : t.pc = s.pc := by
  rcases serve_cases h with ⟨p, rfl⟩ | ⟨_, i, _, _, hi⟩
  · simp
  · exact exec_pc hi

theorem step_pc {s t : State} (h : step s = .next t) : t.pc = s.pc := by
  obtain ⟨_, ⟨_, rfl⟩ | ⟨r, rest, _, hr⟩⟩ := step_cases h
  · rfl
  · exact serve_pc (s := { s with pending := rest }) hr

theorem runFor_pc {k : Nat} {s t : State} (h : runFor k s = .next t) : t.pc = s.pc :=
  runFor_preserves (P := fun u => u.pc = s.pc) (fun _ _ hu hstep => (step_pc hstep).trans hu) rfl h

/-! ### No instruction reads it -/

/-- Replace the program counter. -/
def State.setPc (s : State) (p : Nat) : State := { s with pc := p }

@[simp] theorem State.setPc_inBounds (s : State) (p a : Nat) : (s.setPc p).inBounds a = s.inBounds a := rfl

/-- Operands resolve, and results are computed, from the other fields; so each instruction's continuation commutes with
replacing the program counter, on the branch that ends in an error too. -/
theorem exec_setPc (i : Instr) (s : State) (p : Nat) :
    exec i (s.setPc p) = mapNext (·.setPc p) (exec i s) := by
  cases i with
  | mov d src | add d src | sub d src | mul d src | and d src | or d src | xor d src | shl d src | shr d src =>
    exact complete_bind_mapNext (x := s.destSource d src) (fun _ => rfl) (fun _ => rfl)
  | not d => exact complete_bind_mapNext (x := s.destination d) (fun _ => rfl) (fun _ => rfl)
  | div d src =>
    refine complete_bind_mapNext (x := s.destSource d src) (fun _ => rfl) fun o => ?_
    by_cases hb : o.b = 0 <;> simp only [hb, if_true, if_false] <;> rfl
  | load d m =>
    refine complete_bind_mapNext (x := s.destSource d m) (fun _ => rfl) fun o => ?_
    cases hb : s.inBounds o.b <;> simp only [State.setPc_inBounds, hb] <;> rfl
  | store v m =>
    refine complete_bind_mapNext (x := s.dataAddress v m) (fun _ => rfl) fun o => ?_
    cases hb : s.inBounds o.address <;> simp only [State.setPc_inBounds, hb] <;> rfl

/-- Settles O49: no step or run writes the program counter, an instruction commutes with replacing it, and the snapshot
holds it. -/
theorem programCounterIsInert : Obligations.ProgramCounterIsInert :=
  ⟨fun _ _ => step_pc, exec_setPc, fun _ => rfl, fun _ _ _ => runFor_pc⟩

end Sys2Proof.Machine
end

section
/-! PROOF. The dump: its binary rendering (10_state.md R46) and its step (R44). -/

namespace Sys2Proof.Machine

/-! ### Fixed-length numerals -/

@[simp] theorem fixedDigits_length (base k n : Nat) : (fixedDigits base k n).length = k := by
  induction k generalizing n with
  | zero => rfl
  | succ k ih => simp [fixedDigits, ih]

/-- Character `j` of a fixed-length numeral is the digit of weight `base ^ (k - 1 - j)`. -/
theorem fixedDigits_getElem? (base n : Nat) {k j : Nat} (hj : j < k) :
    (fixedDigits base k n)[j]? = some (digitChar (n / base ^ (k - 1 - j) % base)) := by
  induction k generalizing n with
  | zero => omega
  | succ k ih =>
    rw [fixedDigits]
    rcases Nat.lt_succ_iff_lt_or_eq.mp hj with hlt | rfl
    · have hexp : k + 1 - 1 - j = k - 1 - j + 1 := by omega
      rw [List.getElem?_append_left (by simpa using hlt), ih _ hlt, Nat.div_div_eq_div_mul, hexp, Nat.pow_succ']
    · simp

/-- The character of a binary digit is `1` exactly when the bit is set. -/
theorem digitChar_bit (m i : Nat) : digitChar (m / 2 ^ i % 2) = if m.testBit i then 0x31 else 0x30 := by
  rw [Nat.testBit_eq_decide_div_mod_eq]
  rcases Nat.mod_two_eq_zero_or_one (m / 2 ^ i) with h | h <;> rw [h] <;> rfl

/-! ### The snapshot -/

theorem State.snapshot_registers_getElem? (s : State) {k : Nat} (hk : k < s.cfg.nregs) :
    s.snapshot.registers[k]? = some (s.view (k + 1)) := by
  simp [State.snapshot, hk]

theorem State.snapshot_magnitudes (s : State) :
    s.snapshot.registers.map RegView.magnitude = (List.range s.cfg.nregs).map fun k => s.readReg (k + 1) := by
  simp [State.snapshot, State.view]

/-- Settles O60: the rendering is the fixed-length base 2 numeral, whose digits are the bits. -/
theorem binaryRenderingIsTheBits : Obligations.BinaryRenderingIsTheBits := by
  refine ⟨fun s k hk => ⟨s.view (k + 1), s.snapshot_registers_getElem? hk, fixedDigits_length 2 _ _, ?_⟩, by decide⟩
  intro j hj
  exact (fixedDigits_getElem? 2 _ hj).trans (congrArg some (digitChar_bit _ _))

/-! ### The transaction -/

/-- A step at a `dump` takes the request and hands back the snapshot. -/
theorem step_dump {s : State} {rest : List Request} (hw : s.cfg.wf = true) (hp : s.pending = .dump :: rest) :
    step s = .next { s with pending := rest, reply := some (.snapshot s.snapshot) } :=
  step_eq_serve hw hp

/-- Settles O58: the reply is the state's snapshot, which the second dump finds as it was, since a snapshot reads neither
the pending requests nor the last reply. -/
theorem dumpIsAReadOnlyProjection : Obligations.DumpIsAReadOnlyProjection := by
  intro s rest hw hp
  refine ⟨s.snapshot, step_dump hw hp, rfl, rfl, s.snapshot_magnitudes, ?_⟩
  rintro rest' rfl
  rw [runFor_succ_of_step 1 (step_dump hw hp)]
  exact runFor_succ_of_step 0 (step_dump hw rfl)

end Sys2Proof.Machine
end

section
/-! SUPPORT. The operand resolver in the words of the spec: a numeral is read to the number its digits spell, so a
register key, a literal and a source value are resolved to what the spec says (10_state.md R23; 30_encoding.md R80 to
R89). -/

namespace Sys2Proof.Machine

/-! ### Numerals -/

/-- `t` spells the digits `ds` of a base, most significant first. -/
def SpellsDigits (base : Nat) (t : Text) (ds : List Nat) : Prop :=
  List.Forall₂ (fun c d => IsHexDigit c d ∧ d < base) t ds

theorem digitValue_eq_some {c : Byte} {d : Nat} : digitValue c = some d ↔ IsHexDigit c d := by
  unfold digitValue IsHexDigit
  simp only [BitVec.ofNat_eq_ofNat, BitVec.le_def, BitVec.toNat_ofNat, Nat.reducePow, Nat.reduceMod]
  split_ifs <;> simp only [Option.some.injEq, false_iff] <;> omega

theorem IsHexDigit.lt_sixteen {c : Byte} {d : Nat} (h : IsHexDigit c d) : d < 16 := by
  rcases h with ⟨hd, _⟩ | ⟨_, hd, _⟩ <;> omega

/-- The digits read so far weigh more than those still to read. -/
theorem readDigits_of_spells {base : Nat} {t : Text} {ds : List Nat} (h : SpellsDigits base t ds) (acc : Nat) :
    readDigits base acc t = some (Nat.ofDigits base (ds.reverse ++ [acc])) := by
  induction h generalizing acc with
  | nil => simp [readDigits]
  | cons hd _ ih =>
    obtain ⟨hdigit, hlt⟩ := hd
    simp only [readDigits, digitValue_eq_some.mpr hdigit, if_pos hlt, ih]
    simp [Nat.ofDigits_append, Nat.ofDigits_cons, Nat.add_comm, Nat.mul_comm]

/-- A numeral is read to the number its digits spell (30_encoding.md R87). -/
theorem readNumeral_of_spells {base : Nat} {t : Text} {ds : List Nat} (h : SpellsDigits base t ds) (hne : ds ≠ []) :
    readNumeral base t = some (Nat.ofDigits base ds.reverse) := by
  have ht : t.isEmpty = false := by
    cases h with
    | nil => exact absurd rfl hne
    | cons _ _ => rfl
  simp [readNumeral, ht, readDigits_of_spells h, Nat.ofDigits_append_zero]

theorem toNat_decimalChar {d : Nat} (h : d < 10) : (BitVec.ofNat 8 (48 + d)).toNat = 48 + d := by
  rw [BitVec.toNat_ofNat]
  omega

theorem spellsDigits_digitChars {ds : List Nat} (h : ∀ d ∈ ds, d < 10) : SpellsDigits 10 (digitChars ds) ds := by
  rw [SpellsDigits, digitChars, List.forall₂_map_left_iff, List.forall₂_same]
  exact fun d hd => ⟨.inl ⟨h d hd, toNat_decimalChar (h d hd)⟩, h d hd⟩

/-! ### Register keys -/

/-- The digits of a positive number do not begin with `0`: the leading digit is not zero. -/
theorem digitChars_digits_head? {i : Nat} (hi : i ≠ 0) :
    (digitChars (Nat.digits 10 i).reverse).head? ≠ some 0x30 := by
  have hne := Nat.digits_ne_nil_iff_ne_zero (b := 10).mpr hi
  have hlast : (Nat.digits 10 i).getLast hne ≠ 0 := Nat.getLast_digit_ne_zero 10 hi
  have hlt := Nat.digits_lt_base (by decide : 1 < 10) (List.getLast_mem hne)
  rw [digitChars, List.head?_map, List.head?_reverse, List.getLast?_eq_some_getLast hne]
  intro h
  have hchar := congrArg BitVec.toNat (Option.some.inj h)
  rw [toNat_decimalChar hlt] at hchar
  simp at hchar
  omega

/-- A register key names its register (10_state.md R23). -/
theorem IsKey.keyIndex_eq {s : State} {t : Token} {i : Nat} (h : IsKey s t i) : keyIndex s.cfg.nregs t = some i := by
  obtain ⟨h1, hn, rfl⟩ := h
  have hi : i ≠ 0 := by omega
  have hread : readNumeral 10 (digitChars (Nat.digits 10 i).reverse) = some i := by
    have hspell := spellsDigits_digitChars (ds := (Nat.digits 10 i).reverse) fun d hd =>
      Nat.digits_lt_base (by decide) (List.mem_reverse.mp hd)
    simpa [Nat.ofDigits_digits] using readNumeral_of_spells hspell (by simpa [Nat.digits_eq_nil_iff_eq_zero] using hi)
  rw [keyName, shortestDecimal, if_neg hi, keyIndex, if_pos ⟨rfl, digitChars_digits_head? hi⟩, hread]
  exact if_pos ⟨h1, hn⟩

/-! ### Literals -/

/-- A literal begins with a decimal digit (the hex form with that of `0x`), so before the letters. -/
theorem IsLiteral.head_before_letters {t : Token} {v : Nat} (h : IsLiteral t v) :
    ∃ b rest, t = b :: rest ∧ b.toNat < 58 := by
  rcases h with ⟨ds, hne, hlt, rfl, _⟩ | ⟨cs, _, _, _, rfl, _⟩
  · cases ds with
    | nil => exact absurd rfl hne
    | cons d ds =>
      have hd : d < 10 := hlt d (by simp)
      refine ⟨_, _, rfl, ?_⟩
      rw [toNat_decimalChar hd]
      omega
  · exact ⟨_, _, rfl, by decide⟩

/-- A literal is read to its value (30_encoding.md R86, R87); decimal digits never begin with `0x`. -/
theorem IsLiteral.literalValue_eq {t : Token} {v : Nat} (h : IsLiteral t v) : literalValue t = some v := by
  rcases h with ⟨ds, hne, hlt, rfl, rfl⟩ | ⟨cs, ds, hne, hspell, rfl, rfl⟩
  · have hnot0x : (digitChars ds).take 2 ≠ [0x30, 0x78] := by
      intro h
      have hx : (0x78 : Byte) ∈ digitChars ds := List.mem_of_mem_take (i := 2) (by simp [h])
      obtain ⟨d, hd, hchar⟩ := List.mem_map.mp hx
      have hnat := congrArg BitVec.toNat hchar
      rw [toNat_decimalChar (hlt d hd)] at hnat
      have := hlt d hd
      simp at hnat
      omega
    rw [literalValue, if_neg hnot0x]
    exact readNumeral_of_spells (spellsDigits_digitChars hlt) hne
  · have hspell16 : SpellsDigits 16 cs ds := hspell.imp fun c d hd => ⟨hd, hd.lt_sixteen⟩
    exact readNumeral_of_spells hspell16 hne

/-- A token that begins before the letters is no register key and does not look like one. -/
theorem keyIndex_of_head_before_letters {b : Byte} {rest : Token} (n : Nat) (hb : b.toNat < 58) :
    keyIndex n (b :: rest) = none ∧ beginsLikeRegister (b :: rest) = false := by
  have hupper : b ≠ 0x52 := by rintro rfl; revert hb; decide
  have hlower : b ≠ 0x72 := by rintro rfl; revert hb; decide
  refine ⟨?_, ?_⟩
  · rw [keyIndex, if_neg fun h => hupper h.1]
  · simpa [beginsLikeRegister] using And.intro hupper hlower

/-! ### Values -/

/-- A source or address token resolves to the value the spec gives it (30_encoding.md R85 steps 1 and 3, R89). -/
theorem SourceValue.getValue_eq {s : State} {t : Token} {b : Nat} (h : SourceValue s t b) : s.getValue t = .ok b := by
  rcases h with ⟨i, hkey, rfl⟩ | ⟨v, hlit, rfl⟩
  · simp [State.getValue, hkey.keyIndex_eq]
  · have hread := hlit.literalValue_eq
    obtain ⟨c, rest, rfl, hc⟩ := hlit.head_before_letters
    obtain ⟨hkey, hreg⟩ := keyIndex_of_head_before_letters (rest := rest) s.cfg.nregs hc
    simp [State.getValue, hkey, hreg, hread, Alu.toUnsignedMasked_natCast]

theorem destSource_of_resolves {s : State} {d src : Token} {k b : Nat} (hd : IsKey s d k) (hb : SourceValue s src b) :
    s.destSource d src = .ok ⟨k, s.readReg k, b⟩ :=
  State.destSource_eq_ok.mpr ⟨hd.keyIndex_eq, hb.getValue_eq, rfl⟩

theorem dataAddress_of_resolves {s : State} {v m : Token} {x a : Nat} (hv : SourceValue s v x)
    (ha : SourceValue s m a) : s.dataAddress v m = .ok ⟨x, a⟩ :=
  State.dataAddress_eq_ok.mpr ⟨hv.getValue_eq, ha.getValue_eq⟩

end Sys2Proof.Machine
end

section
/-! PROOF. Memory: the bounds test of `LOAD` and `STORE` (20_memory.md R55), and who reads and writes memory (R51). -/

namespace Sys2Proof.Machine

/-! ### The bounds test -/

theorem State.inBounds_eq_false {s : State} {a : Nat} (h : s.cfg.memsize ≤ a) : s.inBounds a = false := by
  simpa [State.inBounds] using h

/-- A `LOAD` whose operands resolve to an address at `MEMSIZE` or above is an error (45_memory_ops.md R212). -/
theorem exec_load_outOfBounds {s : State} {d m : Token} {k ea : Nat} (hd : IsKey s d k) (hm : SourceValue s m ea)
    (hea : s.cfg.memsize ≤ ea) : exec (.load d m) s = .next (s.erred .memoryOutOfBounds) := by
  change execLoad d m s = _
  rw [execLoad, destSource_of_resolves hd hm]
  simp only [Except.bind, State.inBounds_eq_false hea]
  rfl

/-- A `STORE` whose operands resolve to an address at `MEMSIZE` or above is an error (45_memory_ops.md R212). -/
theorem exec_store_outOfBounds {s : State} {v m : Token} {x ea : Nat} (hv : SourceValue s v x)
    (hm : SourceValue s m ea) (hea : s.cfg.memsize ≤ ea) :
    exec (.store v m) s = .next (s.erred .memoryOutOfBounds) := by
  change execStore v m s = _
  rw [execStore, dataAddress_of_resolves hv hm]
  simp only [Except.bind, State.inBounds_eq_false hea]
  rfl

/-- Construction accepts a positive width and register count, with any memory size (70_reset_and_hazards.md R271). -/
theorem construct_of_pos {w n : Nat} (m : Nat) (hw : 1 ≤ w) (hn : 1 ≤ n) :
    construct w n m = .ok (State.fresh ⟨w, n, m⟩) := by
  simp [construct, hw, hn]

/-- Settles O35: every address is at least a `MEMSIZE` of 0. -/
theorem noMemoryMeansAlwaysOutOfBounds : Obligations.NoMemoryMeansAlwaysOutOfBounds :=
  ⟨fun _ _ hw hn => ⟨_, construct_of_pos 0 hw hn, rfl⟩,
    fun _ _ _ _ ea h0 hd hm => exec_load_outOfBounds hd hm (h0.trans_le ea.zero_le),
    fun _ _ _ _ ea h0 hv hm => exec_store_outOfBounds hv hm (h0.trans_le ea.zero_le)⟩

/-! ### Only `STORE` writes memory -/

theorem exec_mem {i : Instr} {s t : State} (hi : i.isStore = false) (h : exec i s = .next t) : t.mem = s.mem := by
  rcases exec_next_cases h with ⟨e, rfl⟩ | ⟨k, r, f, _, rfl⟩ | ⟨a, x, ⟨v, m, rfl, _⟩, rfl⟩
  · rfl
  · rfl
  · cases hi

/-! ### Only `LOAD` reads memory -/

/-- Replace memory. -/
def State.setMem (s : State) (m : Memory) : State := { s with mem := m }

@[simp] theorem State.setMem_inBounds (s : State) (m : Memory) (a : Nat) : (s.setMem m).inBounds a = s.inBounds a := rfl

/-- The shared shape of the instructions run in two states that resolve the operands alike and differ only in what `f`
forgets: when raising an error and the continuation agree up to `f`, so does the instruction. -/
theorem mapNext_complete_bind_congr {α : Type} {f : State → State} {s s' : State} {x : Except ExecutionError α}
    {k k' : α → Except ExecutionError State} (hraise : ∀ e, f (s'.raise e) = f (s.raise e))
    (hk : ∀ o, mapNext f (s'.complete (k' o)) = mapNext f (s.complete (k o))) :
    mapNext f (s'.complete (x.bind k')) = mapNext f (s.complete (x.bind k)) := by
  cases x with
  | error e => exact congrArg Host.Outcome.next (hraise e)
  | ok o => exact hk o

/-- Operands resolve, and results other than `LOAD`'s are computed, from the other fields; so with memory forgotten an
instruction other than `LOAD` does the same whatever memory holds, on the branch that ends in an error too. -/
theorem exec_setMem {i : Instr} (s : State) (m : Memory) (hi : i.isLoad = false) :
    mapNext (·.setMem []) (exec i (s.setMem m)) = mapNext (·.setMem []) (exec i s) := by
  cases i with
  | mov d src | add d src | sub d src | mul d src | and d src | or d src | xor d src | shl d src | shr d src =>
    exact mapNext_complete_bind_congr (x := s.destSource d src) (fun _ => rfl) (fun _ => rfl)
  | not d => exact mapNext_complete_bind_congr (x := s.destination d) (fun _ => rfl) (fun _ => rfl)
  | div d src =>
    refine mapNext_complete_bind_congr (x := s.destSource d src) (fun _ => rfl) fun o => ?_
    by_cases hb : o.b = 0 <;> simp only [hb, if_true, if_false] <;> rfl
  | load d a => cases hi
  | store v a =>
    refine mapNext_complete_bind_congr (x := s.dataAddress v a) (fun _ => rfl) fun o => ?_
    cases hb : s.inBounds o.address <;> simp only [State.setMem_inBounds, hb] <;> rfl

/-! ### No instruction comes from memory -/

theorem step_of_decode_ok {s : State} {line : Text} {rest : List Request} {i : Instr} (hw : s.cfg.wf = true)
    (hp : s.pending = .execute line :: rest) (hi : decode line = .ok i) :
    step s = exec i { s with pending := rest } := by
  rw [step_eq_serve hw hp, serve, executeLine, hi]

theorem step_of_decode_error {s : State} {line : Text} {rest : List Request} {e : ExecutionError}
    (hw : s.cfg.wf = true) (hp : s.pending = .execute line :: rest) (he : decode line = .error e) :
    step s = .next { s with pending := rest, reply := some (.err e) } := by
  rw [step_eq_serve hw hp, serve, executeLine, he]
  rfl

/-- The instruction of a step, or the decoder's error, is that of the line alone. -/
theorem step_instruction_of_line {s : State} {line : Text} {rest : List Request} (hw : s.cfg.wf = true)
    (hp : s.pending = .execute line :: rest) :
    (∃ i, ∀ m : Memory, step { s with mem := m } = exec i { s with mem := m, pending := rest }) ∨
    (∃ e, ∀ m : Memory,
      step { s with mem := m } = .next { s with mem := m, pending := rest, reply := some (.err e) }) := by
  cases hd : decode line with
  | ok i => exact .inl ⟨i, fun m => step_of_decode_ok (s := { s with mem := m }) hw hp hd⟩
  | error e => exact .inr ⟨e, fun m => step_of_decode_error (s := { s with mem := m }) hw hp hd⟩

/-- Settles O52: who writes, who reads, what a line decodes to, and the snapshot, which has no field of memory. -/
theorem onlyLoadReadsAndOnlyStoreWritesMemory : Obligations.OnlyLoadReadsAndOnlyStoreWritesMemory :=
  ⟨fun _ _ _ => exec_mem, fun _ => exec_setMem, fun _ _ _ => step_instruction_of_line, fun _ _ => rfl⟩

end Sys2Proof.Machine
end

section
/-! SUPPORT. The operand resolver read backwards: a token that it answers a value for is a register key or a literal in
the words of the spec (10_state.md R23; 30_encoding.md R85 to R89). -/

namespace Sys2Proof.Machine

/-! ### Numerals -/

/-- Text that is read as digits of a base spells some. -/
theorem exists_spells_of_readDigits {base acc v : Nat} {t : Text} (h : readDigits base acc t = some v) :
    ∃ ds, SpellsDigits base t ds := by
  induction t generalizing acc with
  | nil => exact ⟨[], .nil⟩
  | cons c cs ih =>
    rw [readDigits] at h
    split at h
    · cases h
    next d hd =>
      split at h
      next hlt =>
        obtain ⟨ds, hds⟩ := ih h
        exact ⟨d :: ds, .cons ⟨digitValue_eq_some.mp hd, hlt⟩ hds⟩
      · cases h

/-- A numeral is exactly a non-empty text that spells digits, and is read to their number (30_encoding.md R86, R87). -/
theorem readNumeral_eq_some {base v : Nat} {t : Text} :
    readNumeral base t = some v ↔ ∃ ds, ds ≠ [] ∧ SpellsDigits base t ds ∧ v = Nat.ofDigits base ds.reverse := by
  constructor
  · intro h
    cases t with
    | nil => cases h
    | cons c cs =>
      obtain ⟨ds, hds⟩ := exists_spells_of_readDigits (acc := 0) h
      have hne : ds ≠ [] := by
        rintro rfl
        cases hds
      exact ⟨ds, hne, hds, Option.some.inj (h.symm.trans (readNumeral_of_spells hds hne))⟩
  · rintro ⟨ds, hne, hds, rfl⟩
    exact readNumeral_of_spells hds hne

/-- A decimal digit has one spelling. -/
theorem SpellsDigits.eq_digitChars {t : Text} {ds : List Nat} (h : SpellsDigits 10 t ds) :
    t = digitChars ds ∧ ∀ d ∈ ds, d < 10 := by
  induction h with
  | nil => exact ⟨rfl, by simp⟩
  | @cons c d cs ds hcd _ ih =>
    obtain ⟨hdigit, hlt⟩ := hcd
    obtain ⟨rfl, hall⟩ := ih
    have hc : c = BitVec.ofNat 8 (48 + d) := by
      apply BitVec.eq_of_toNat_eq
      rw [toNat_decimalChar hlt]
      rcases hdigit with ⟨_, hc⟩ | ⟨hge, _⟩
      · exact hc
      · omega
    exact ⟨by rw [hc]; rfl, List.forall_mem_cons.mpr ⟨hlt, hall⟩⟩

/-! ### Register keys -/

/-- Digits that do not begin with `0` are the digits of their number. -/
theorem digits_ofDigits_reverse {ds : List Nat} (hlt : ∀ d ∈ ds, d < 10) (hhead : (digitChars ds).head? ≠ some 0x30) :
    Nat.digits 10 (Nat.ofDigits 10 ds.reverse) = ds.reverse := by
  refine Nat.digits_ofDigits 10 (by decide) _ (fun d hd => hlt d (List.mem_reverse.mp hd)) fun hne => ?_
  cases ds with
  | nil => exact absurd rfl hne
  | cons d ds =>
    have hd : d ≠ 0 := by
      rintro rfl
      exact hhead rfl
    simpa using hd

/-- A token that is resolved to a register is `R` and a numeral that does not begin with `0`. -/
theorem exists_numeral_of_keyIndex {n i : Nat} {t : Token} (h : keyIndex n t = some i) :
    ∃ rest, t = 0x52 :: rest ∧ rest.head? ≠ some 0x30 ∧ readNumeral 10 rest = some i := by
  cases t with
  | nil => cases h
  | cons c rest =>
    rw [keyIndex] at h
    split at h
    next hc =>
      obtain ⟨rfl, hhead⟩ := hc
      refine ⟨rest, rfl, hhead, ?_⟩
      split at h
      · cases h
      next j hj =>
        split at h
        · exact hj.trans h
        · cases h
    · cases h

/-- A token that is resolved to a register is its key (10_state.md R23). -/
theorem isKey_of_keyIndex {s : State} {t : Token} {i : Nat} (h : keyIndex s.cfg.nregs t = some i) : IsKey s t i := by
  obtain ⟨h1, hn⟩ := keyIndex_bounds h
  obtain ⟨rest, rfl, hhead, hread⟩ := exists_numeral_of_keyIndex h
  obtain ⟨ds, _, hds, rfl⟩ := readNumeral_eq_some.mp hread
  obtain ⟨rfl, hlt⟩ := hds.eq_digitChars
  refine ⟨h1, hn, ?_⟩
  rw [keyName, shortestDecimal, if_neg (Nat.one_le_iff_ne_zero.mp h1), digits_ofDigits_reverse hlt hhead,
    List.reverse_reverse]

/-! ### Values -/

/-- A token that is read as a literal is one, of that value (30_encoding.md R86, R87). -/
theorem isLiteral_of_literalValue {t : Token} {v : Nat} (h : literalValue t = some v) : IsLiteral t v := by
  rw [literalValue] at h
  split at h
  next hhex =>
    obtain ⟨ds, hne, hds, rfl⟩ := readNumeral_eq_some.mp h
    refine .inr ⟨t.drop 2, ds, hne, hds.imp fun _ _ hd => hd.1, ?_, rfl⟩
    simpa [hhex] using (List.take_append_drop 2 t).symm
  · obtain ⟨ds, hne, hds, rfl⟩ := readNumeral_eq_some.mp h
    obtain ⟨ht, hlt⟩ := hds.eq_digitChars
    exact .inl ⟨ds, hne, hlt, ht, rfl⟩

/-- A token that is resolved to a value has it in the words of the spec (30_encoding.md R85 steps 1 and 3, R89). -/
theorem sourceValue_of_getValue {s : State} {t : Token} {b : Nat} (h : s.getValue t = .ok b) : SourceValue s t b := by
  rcases State.getValue_eq_ok h with ⟨i, hi, rfl⟩ | ⟨_, _, v, hv, rfl⟩
  · exact .inl ⟨i, isKey_of_keyIndex hi, rfl⟩
  · exact .inr ⟨v, isLiteral_of_literalValue hv, rfl⟩

end Sys2Proof.Machine
end

section
/-! PROOF. Masking and the signed reading are inverse (40_alu_primitives.md R113). -/

namespace Sys2Proof.Machine

/-! ### Masking forgets multiples of the modulus -/

theorem Alu.toUnsignedMasked_sub_modulus (z : Int) (w : Nat) :
    Alu.toUnsignedMasked (z - ((2 ^ w : Nat) : Int)) w = Alu.toUnsignedMasked z w := by
  rw [Alu.toUnsignedMasked, Int.sub_emod_right, Alu.toUnsignedMasked]

/-! ### The signed reading -/

/-- Both branches of the signed reading are the magnitude up to the modulus, so masking gives it back. -/
theorem Alu.toUnsignedMasked_toSigned {m w : Nat} (hm : m < 2 ^ w) :
    Alu.toUnsignedMasked (Alu.toSigned m w) w = m := by
  unfold Alu.toSigned
  split
  · rw [Alu.toUnsignedMasked_sub_modulus, Alu.toUnsignedMasked_of_lt hm]
  · exact Alu.toUnsignedMasked_of_lt hm

/-- The signed reading lies in the signed range, half the modulus on either side of 0. -/
theorem Alu.toSigned_range {m w : Nat} (hw : 1 ≤ w) (hm : m < 2 ^ w) :
    -(2 : Int) ^ (w - 1) ≤ Alu.toSigned m w ∧ Alu.toSigned m w ≤ (2 : Int) ^ (w - 1) - 1 := by
  have hdouble := Nat.two_pow_pred_mul_two hw
  have hcast : ((2 ^ (w - 1) : Nat) : Int) = (2 : Int) ^ (w - 1) := Nat.cast_pow 2 (w - 1)
  rw [Alu.toSigned_eq hw hm, ← hcast]
  split <;> omega

/-- A value of the signed range is masked to a magnitude below half the modulus exactly when it is not negative; on
either side the signed reading undoes what masking added. -/
theorem Alu.toSigned_toUnsignedMasked {v : Int} {w : Nat} (hw : 1 ≤ w) (hlo : -(2 : Int) ^ (w - 1) ≤ v)
    (hhi : v ≤ (2 : Int) ^ (w - 1) - 1) : Alu.toSigned (Alu.toUnsignedMasked v w) w = v := by
  have hdouble := Nat.two_pow_pred_mul_two hw
  have hcast : ((2 ^ (w - 1) : Nat) : Int) = (2 : Int) ^ (w - 1) := Nat.cast_pow 2 (w - 1)
  rw [← hcast] at hlo hhi
  rw [Alu.toSigned_eq hw (Alu.toUnsignedMasked_lt v w)]
  rcases le_or_gt 0 v with hnonneg | hneg
  · have hmask : ((Alu.toUnsignedMasked v w : Nat) : Int) = v := by
      rw [Alu.toUnsignedMasked_cast, Int.emod_eq_of_lt hnonneg (by omega)]
    rw [if_neg (by omega), hmask]
  · have hmask : ((Alu.toUnsignedMasked v w : Nat) : Int) = v + ((2 ^ w : Nat) : Int) := by
      rw [Alu.toUnsignedMasked_cast, ← Int.add_emod_right, Int.emod_eq_of_lt (by omega) (by omega)]
    rw [if_pos (by omega), hmask]
    omega

/-- Settles O38: each map undoes the other, and each lands in the other's domain. -/
theorem signedDecodeAndMaskingAreInverse : Obligations.SignedDecodeAndMaskingAreInverse :=
  fun w hw => ⟨fun _ hm => ⟨Alu.toUnsignedMasked_toSigned hm, Alu.toSigned_range hw hm⟩,
    fun v hlo hhi => ⟨Alu.toUnsignedMasked_lt v w, Alu.toSigned_toUnsignedMasked hw hlo hhi⟩⟩

end Sys2Proof.Machine
end

section
/-! PROOF. `SUB` undoes `ADD` and `ADD` undoes `SUB` (40_alu_primitives.md R130). -/

namespace Sys2Proof.Machine

/-! ### On magnitudes -/

/-- Masking before a subtraction is idle, as the result is masked. -/
theorem Alu.sub_toUnsignedMasked (z : Int) (b w : Nat) :
    (Alu.sub (Alu.toUnsignedMasked z w) b w).1 = Alu.toUnsignedMasked (z - b) w := by
  simp only [Alu.sub, Alu.toUnsignedMasked_cast]
  rw [Alu.toUnsignedMasked, Int.emod_sub_emod, Alu.toUnsignedMasked]

/-- Masking before an addition is idle, as the result is masked. -/
theorem Alu.add_toUnsignedMasked (z : Int) (b w : Nat) :
    (Alu.add (Alu.toUnsignedMasked z w) b w).1 = Alu.toUnsignedMasked (z + b) w := by
  simp only [Alu.add, Alu.toUnsignedMasked_cast]
  rw [Alu.toUnsignedMasked, Int.emod_add_emod, Alu.toUnsignedMasked]

theorem Alu.sub_add_fst {a w : Nat} (b : Nat) (ha : a < 2 ^ w) : (Alu.sub (Alu.add a b w).1 b w).1 = a := by
  calc (Alu.sub (Alu.add a b w).1 b w).1
      = Alu.toUnsignedMasked ((a : Int) + b - b) w := Alu.sub_toUnsignedMasked ((a : Int) + b) b w
    _ = a := by rw [add_sub_cancel_right, Alu.toUnsignedMasked_of_lt ha]

theorem Alu.add_sub_fst {a w : Nat} (b : Nat) (ha : a < 2 ^ w) : (Alu.add (Alu.sub a b w).1 b w).1 = a := by
  calc (Alu.add (Alu.sub a b w).1 b w).1
      = Alu.toUnsignedMasked ((a : Int) - b + b) w := Alu.add_toUnsignedMasked ((a : Int) - b) b w
    _ = a := by rw [sub_add_cancel, Alu.toUnsignedMasked_of_lt ha]

/-! ### In the engine -/

theorem exec_add_of_resolves {s : State} {d src : Token} {k b : Nat} (hd : IsKey s d k) (hb : SourceValue s src b) :
    exec (.add d src) s = .next (s.commitResult k (Alu.add (s.readReg k) b s.cfg.width).1
      (Flags.afterAdd s.cfg.width (s.readReg k) b)).returnOk := by
  change execAdd d src s = _
  rw [execAdd, destSource_of_resolves hd hb]
  rfl

theorem exec_sub_of_resolves {s : State} {d src : Token} {k b : Nat} (hd : IsKey s d k) (hb : SourceValue s src b) :
    exec (.sub d src) s = .next (s.commitResult k (Alu.sub (s.readReg k) b s.cfg.width).1
      (Flags.afterSub s.cfg.width (s.readReg k) b)).returnOk := by
  change execSub d src s = _
  rw [execSub, destSource_of_resolves hd hb]
  rfl

/-- An `ADD` that returns `Ok` found a value for its source. -/
theorem sourceValue_of_add_ok {s t : State} {d src : Token} (h : exec (.add d src) s = .next t)
    (hok : t.reply = some .ok) : ∃ b, SourceValue s src b := by
  change execAdd d src s = .next t at h
  rw [execAdd] at h
  rcases complete_destSource s d src _ with ⟨e, he⟩ | ⟨o, _, ho, _, _⟩
  · obtain rfl := Host.Outcome.next.inj (h.symm.trans he)
    cases hok
  · obtain ⟨_, hb, _⟩ := State.destSource_eq_ok.mp ho
    exact ⟨o.b, sourceValue_of_getValue hb⟩

/-- A commit to one register leaves the value of every source other than that register's own key. -/
theorem SourceValue.commitResult {s : State} {d src : Token} {k b : Nat} (hb : SourceValue s src b) (hd : IsKey s d k)
    (hne : d ≠ src) (r : Nat) (f : Flags) : SourceValue (s.commitResult k r f).returnOk src b := by
  obtain ⟨hk, _, rfl⟩ := hd
  rcases hb with ⟨j, hj, rfl⟩ | hlit
  · obtain ⟨hj1, hjn, hsrc⟩ := hj
    have hjk : j ≠ k := by
      rintro rfl
      exact hne hsrc.symm
    exact .inl ⟨j, ⟨hj1, hjn, hsrc⟩, (State.readReg_writeReg_other s k j r hk hj1 hjk).symm⟩
  · exact .inr hlit

/-- A register that exists reads back the result committed to it. -/
theorem State.readReg_commitResult_same {s : State} {k : Nat} (r : Nat) (f : Flags) (hk : 1 ≤ k)
    (hlen : k ≤ s.regs.length) : (s.commitResult k r f).returnOk.readReg k = r :=
  s.readReg_writeReg_same k r hk hlen

/-- Writing a register's own value to it, whatever was written to it before, leaves the registers as they were. -/
theorem State.regs_set_set_readReg {s : State} {k : Nat} (r : Nat) (hk : k - 1 < s.regs.length) :
    (s.regs.set (k - 1) r).set (k - 1) (s.readReg k) = s.regs := by
  simp [State.readReg, hk]

/-- A key names a register that exists. -/
theorem IsKey.index_le_length {s : State} {d : Token} {k : Nat} (hd : IsKey s d k) (hinv : s.Inv) :
    1 ≤ k ∧ k ≤ s.regs.length := by
  obtain ⟨hk, hn, _⟩ := hd
  exact ⟨hk, hinv.regCount ▸ hn⟩

/-- Settles O41: the `SUB` finds the sum in the destination and the same value in the source. -/
theorem addThenSubRestoresTheRegister : Obligations.AddThenSubRestoresTheRegister := by
  refine ⟨fun w a b ha _ => ⟨Alu.sub_add_fst b ha, Alu.add_sub_fst b ha⟩, ?_⟩
  intro s t u d src k hinv hd hne hadd hok hsub
  obtain ⟨b, hb⟩ := sourceValue_of_add_ok hadd hok
  obtain rfl := Host.Outcome.next.inj (hadd.symm.trans (exec_add_of_resolves hd hb))
  obtain rfl := Host.Outcome.next.inj (hsub.symm.trans (exec_sub_of_resolves hd (hb.commitResult hd hne _ _)))
  refine ⟨?_, b, hb, rfl⟩
  obtain ⟨hk, hlen⟩ := hd.index_le_length hinv
  have hback := Alu.sub_add_fst b (State.readReg_lt hinv.regRange k)
  simp only [State.returnOk_regs, State.returnOk_cfg, State.commitResult_regs, State.commitResult_cfg,
    State.readReg_commitResult_same _ _ hk hlen, hback]
  exact State.regs_set_set_readReg _ (by omega)

end Sys2Proof.Machine
end

section
/-! SUPPORT. The reply of `execute` (41_execute_and_move.md R142). -/

namespace Sys2Proof.Machine

/-- Every instruction gives a state that replies, with an error or, after its one commit, `Ok`: the outcomes of
`exec_cases`, each with its reply. -/
theorem exec_replies_ok_or_err (i : Instr) (s : State) :
    ∃ t, exec i s = .next t ∧ (t.reply = some .ok ∨ ∃ e, t.reply = some (.err e)) := by
  rcases exec_cases i s with ⟨e, he⟩ | ⟨k, r, f, hc⟩ | ⟨a, x, hc⟩
  · exact ⟨_, he, .inr ⟨e, s.raise_reply e⟩⟩
  · exact ⟨_, hc.exec_eq, .inl (s.commitResult k r f).returnOk_reply⟩
  · exact ⟨_, hc.exec_eq, .inl (s.writeCell a x).returnOk_reply⟩

/-- Settles O37: the line is refused by the decoder, whose error is the reply, or it is an instruction, which replies. -/
theorem executeReturnsOkOrAnError : Obligations.ExecuteReturnsOkOrAnError := by
  intro s line rest hw hp
  cases hd : decode line with
  | error e => exact ⟨_, step_of_decode_error hw hp hd, .inr ⟨e, rfl⟩⟩
  | ok i =>
    rw [step_of_decode_ok hw hp hd]
    exact exec_replies_ok_or_err i _

end Sys2Proof.Machine
end

section
/-! PROOF. The errors of `execute` (60_exceptions.md): an error changes nothing (R240), and which instruction raises
which error (R233 to R236). -/

namespace Sys2Proof.Machine

/-! ### An error changes nothing -/

/-- An instruction whose reply is an error has done no more than raise it: the two ways to commit reply `Ok`. -/
theorem eq_raise_of_exec_err {i : Instr} {s t : State} {e : ExecutionError} (h : exec i s = .next t)
    (he : t.reply = some (.err e)) : t = s.raise e := by
  rcases exec_next_cases h with ⟨e', rfl⟩ | ⟨k, r, f, _, rfl⟩ | ⟨a, x, _, rfl⟩
  · obtain rfl : e' = e := by simpa using he
    rfl
  · cases he
  · cases he

/-- Settles O36: the error is the decoder's, which is the whole answer, or the instruction's, which raises it only. -/
theorem anErrorChangesNothing : Obligations.AnErrorChangesNothing := by
  intro s t line rest e hp hstep he
  obtain ⟨hw, -⟩ := step_cases hstep
  cases hd : decode line with
  | error e' =>
    obtain rfl := Host.Outcome.next.inj (hstep.symm.trans (step_of_decode_error hw hp hd))
    obtain rfl : e' = e := by simpa using he
    rfl
  | ok i =>
    rw [step_of_decode_ok hw hp hd] at hstep
    exact eq_raise_of_exec_err hstep he

/-! ### The errors of the operands -/

/-- An error that operand resolution raises (60_exceptions.md R233, R234). -/
def IsOperandError (e : ExecutionError) : Prop := e = .unknownRegister ∨ e = .invalidOperand

theorem State.destination_error {s : State} {t : Token} {e : ExecutionError} (h : s.destination t = .error e) :
    IsOperandError e :=
  .inl (State.destination_eq_error.mp h).2

theorem State.getValue_error {s : State} {t : Token} {e : ExecutionError} (h : s.getValue t = .error e) :
    IsOperandError e := by
  rw [State.getValue] at h
  split at h
  · cases h
  · split at h
    · exact .inl (Except.error.inj h).symm
    · split at h
      · cases h
      · exact .inr (Except.error.inj h).symm

theorem State.destSource_error {s : State} {d src : Token} {e : ExecutionError} (h : s.destSource d src = .error e) :
    IsOperandError e := by
  rw [State.destSource] at h
  split at h
  next hd => exact Except.error.inj h ▸ State.destination_error hd
  · split at h
    next hsrc => exact Except.error.inj h ▸ State.getValue_error hsrc
    · cases h

theorem State.dataAddress_error {s : State} {v m : Token} {e : ExecutionError} (h : s.dataAddress v m = .error e) :
    IsOperandError e := by
  rw [State.dataAddress] at h
  split at h
  next hv => exact Except.error.inj h ▸ State.getValue_error hv
  · split at h
    next hm => exact Except.error.inj h ▸ State.getValue_error hm
    · cases h

/-! ### Which instruction raises which error -/

/-- `DIV` with good operands and a zero divisor (60_exceptions.md R235). -/
def DividesByZero (i : Instr) (s : State) : Prop :=
  ∃ d src k, i = .div d src ∧ IsKey s d k ∧ SourceValue s src 0

/-- `LOAD` or `STORE` with good operands and an address at or above `MEMSIZE` (60_exceptions.md R236). -/
def AccessesOutOfBounds (i : Instr) (s : State) : Prop :=
  (∃ d m k ea, i = .load d m ∧ IsKey s d k ∧ SourceValue s m ea ∧ s.cfg.memsize ≤ ea) ∨
  (∃ v m x ea, i = .store v m ∧ SourceValue s v x ∧ SourceValue s m ea ∧ s.cfg.memsize ≤ ea)

/-- An error in the reply is that of the operands, or of the continuation on the operands. -/
theorem error_of_complete_bind {α : Type} {s t : State} {e : ExecutionError} {x : Except ExecutionError α}
    {k : α → Except ExecutionError State} (h : s.complete (x.bind k) = .next t) (he : t.reply = some (.err e)) :
    x = .error e ∨ ∃ o, x = .ok o ∧ k o = .error e := by
  have reply_of_error : ∀ {e'}, s.complete (.error e') = .next t → e' = e := by
    rintro e' h'
    obtain rfl := Host.Outcome.next.inj h'
    simpa using he
  cases x with
  | error e' => exact .inl (congrArg _ (reply_of_error h))
  | ok o =>
    change s.complete (k o) = .next t at h
    cases hk : k o with
    | error e' =>
      rw [hk] at h
      exact .inr ⟨o, rfl, hk.trans (congrArg _ (reply_of_error h))⟩
    | ok u =>
      rw [hk] at h
      obtain rfl := Host.Outcome.next.inj h
      cases he

/-- The operands that `DS` and `LD` resolution answers, in the words of the spec. -/
theorem resolves_of_destSource {s : State} {d src : Token} {o : DestSource} (h : s.destSource d src = .ok o) :
    IsKey s d o.dest ∧ SourceValue s src o.b := by
  obtain ⟨hd, hb, _⟩ := State.destSource_eq_ok.mp h
  exact ⟨isKey_of_keyIndex hd, sourceValue_of_getValue hb⟩

/-- The operands that `ST` resolution answers, in the words of the spec. -/
theorem resolves_of_dataAddress {s : State} {v m : Token} {o : DataAddress} (h : s.dataAddress v m = .ok o) :
    SourceValue s v o.data ∧ SourceValue s m o.address := by
  obtain ⟨hv, hm⟩ := State.dataAddress_eq_ok.mp h
  exact ⟨sourceValue_of_getValue hv, sourceValue_of_getValue hm⟩

/-- Every error that an instruction can raise, and when: resolution's errors, and after it only the zero test of `DIV`
and the bounds test of `LOAD` and `STORE` (41_execute_and_move.md R140 step 8). -/
theorem exec_error_cases {i : Instr} {s t : State} {e : ExecutionError} (h : exec i s = .next t)
    (he : t.reply = some (.err e)) :
    IsOperandError e ∨ (e = .divisionByZero ∧ DividesByZero i s) ∨
      (e = .memoryOutOfBounds ∧ AccessesOutOfBounds i s) := by
  cases i with
  | mov d src | add d src | sub d src | mul d src | and d src | or d src | xor d src | shl d src | shr d src =>
    rcases error_of_complete_bind (x := s.destSource d src) h he with hx | ⟨o, _, hk⟩
    · exact .inl (State.destSource_error hx)
    · cases hk
  | not d =>
    rcases error_of_complete_bind (x := s.destination d) h he with hx | ⟨k, _, hk⟩
    · exact .inl (State.destination_error hx)
    · cases hk
  | div d src =>
    rcases error_of_complete_bind (x := s.destSource d src) h he with hx | ⟨o, ho, hk⟩
    · exact .inl (State.destSource_error hx)
    · obtain ⟨hd, hb⟩ := resolves_of_destSource ho
      split at hk
      next h0 => exact .inr (.inl ⟨(Except.error.inj hk).symm, d, src, o.dest, rfl, hd, h0 ▸ hb⟩)
      · cases hk
  | load d m =>
    rcases error_of_complete_bind (x := s.destSource d m) h he with hx | ⟨o, ho, hk⟩
    · exact .inl (State.destSource_error hx)
    · obtain ⟨hd, hm⟩ := resolves_of_destSource ho
      split at hk
      · cases hk
      next hea =>
        exact .inr (.inr ⟨(Except.error.inj hk).symm,
          .inl ⟨d, m, o.dest, o.b, rfl, hd, hm, by simpa [State.inBounds] using hea⟩⟩)
  | store v m =>
    rcases error_of_complete_bind (x := s.dataAddress v m) h he with hx | ⟨o, ho, hk⟩
    · exact .inl (State.dataAddress_error hx)
    · obtain ⟨hv, hm⟩ := resolves_of_dataAddress ho
      split at hk
      · cases hk
      next hea =>
        exact .inr (.inr ⟨(Except.error.inj hk).symm,
          .inr ⟨v, m, o.data, o.address, rfl, hv, hm, by simpa [State.inBounds] using hea⟩⟩)

/-! ### `DivisionByZero` -/

/-- A `DIV` whose source has the value 0 is an error (42_arithmetic.md R163). -/
theorem exec_div_zero {s : State} {d src : Token} {k : Nat} (hd : IsKey s d k) (hb : SourceValue s src 0) :
    exec (.div d src) s = .next (s.erred .divisionByZero) := by
  change execDiv d src s = _
  rw [execDiv, destSource_of_resolves hd hb]
  rfl

theorem exec_divisionByZero_iff {i : Instr} {s t : State} (h : exec i s = .next t) :
    t.reply = some (.err .divisionByZero) ↔ DividesByZero i s := by
  constructor
  · intro he
    rcases exec_error_cases h he with hop | ⟨_, hdiv⟩ | ⟨hne, _⟩
    · rcases hop with hne | hne <;> cases hne
    · exact hdiv
    · cases hne
  · rintro ⟨d, src, k, rfl, hd, hb⟩
    obtain rfl := Host.Outcome.next.inj (h.symm.trans (exec_div_zero hd hb))
    rfl

/-- Settles O33: only the zero test of `DIV` raises it, and always on a zero divisor. -/
theorem divisionByZeroExactly : Obligations.DivisionByZeroExactly :=
  ⟨fun _ _ _ => exec_divisionByZero_iff, fun _ _ _ _ => exec_div_zero, rfl⟩

/-! ### `MemoryOutOfBounds` -/

theorem exec_of_accessesOutOfBounds {i : Instr} {s : State} (h : AccessesOutOfBounds i s) :
    exec i s = .next (s.erred .memoryOutOfBounds) := by
  rcases h with ⟨d, m, k, ea, rfl, hd, hm, hea⟩ | ⟨v, m, x, ea, rfl, hv, hm, hea⟩
  · exact exec_load_outOfBounds hd hm hea
  · exact exec_store_outOfBounds hv hm hea

theorem exec_memoryOutOfBounds_iff {i : Instr} {s t : State} (h : exec i s = .next t) :
    t.reply = some (.err .memoryOutOfBounds) ↔ AccessesOutOfBounds i s := by
  constructor
  · intro he
    rcases exec_error_cases h he with hop | ⟨hne, _⟩ | ⟨_, hmem⟩
    · rcases hop with hne | hne <;> cases hne
    · cases hne
    · exact hmem
  · intro hmem
    obtain rfl := Host.Outcome.next.inj (h.symm.trans (exec_of_accessesOutOfBounds hmem))
    rfl

/-- Settles O34: only the bounds test of `LOAD` and `STORE` raises it, and an error leaves memory as it was. -/
theorem memoryOutOfBoundsExactly : Obligations.MemoryOutOfBoundsExactly := by
  refine ⟨fun i s t h => ⟨exec_memoryOutOfBounds_iff h, fun he => ?_⟩, rfl⟩
  rw [eq_raise_of_exec_err h he, State.raise_mem]

end Sys2Proof.Machine
end

section
/-! PROOF. Construction (70_reset_and_hazards.md R270, R271), and what every step keeps: the configuration and the key
set (10_state.md R24), the invariant, and that a step gives a state (60_exceptions.md R242). -/

namespace Sys2Proof.Machine

/-! ### Construction -/

/-- Construction refuses a zero width and a zero register count, and nothing else. -/
theorem construct_eq_error_iff {w n m : Nat} :
    construct w n m = .error .invalidConfiguration ↔ w = 0 ∨ n = 0 := by
  rcases Nat.eq_zero_or_pos w with rfl | hw
  · simp [construct]
  rcases Nat.eq_zero_or_pos n with rfl | hn
  · simp [construct]
  rw [construct_of_pos m hw hn]
  simp [hw.ne', hn.ne']

/-- Construction answers a legal configuration at its reset values, and nothing else. -/
theorem fresh_of_construct_eq_ok {w n m : Nat} {s : State} (h : construct w n m = .ok s) :
    Config.wf ⟨w, n, m⟩ = true ∧ s = State.fresh ⟨w, n, m⟩ := by
  change (if Config.wf ⟨w, n, m⟩ then _ else _) = _ at h
  split at h
  next hwf => exact ⟨hwf, (Except.ok.inj h).symm⟩
  · cases h

/-- Settles O56: the test of the configuration is that of the two zeros. -/
theorem constructionIsRefusedExactly : Obligations.ConstructionIsRefusedExactly :=
  fun _ _ m => ⟨construct_eq_error_iff, fun hw hn => ⟨_, construct_of_pos m hw hn⟩⟩

theorem State.readReg_fresh (c : Config) (i : Nat) : (State.fresh c).readReg i = 0 := by
  rw [State.readReg, State.fresh_regs, List.getD_eq_getElem?_getD, List.getElem?_replicate]
  split <;> rfl

/-- Settles O57: a constructed engine has its reset values, a register list of zeros and a memory that lists no cell. -/
theorem constructionGivesTheResetValues : Obligations.ConstructionGivesTheResetValues := by
  intro w n m s h
  obtain ⟨_, rfl⟩ := fresh_of_construct_eq_ok h
  exact ⟨rfl, List.length_replicate, State.readReg_fresh _, Memory.read_nil, rfl, rfl⟩

/-- Settles O46: a constructed engine has a legal configuration and its reset values, as the reset state has. -/
theorem invariantHoldsAfterConstruction : Obligations.InvariantHoldsAfterConstruction := by
  refine ⟨fun w n m s h => ?_, State.fresh_inv (by decide)⟩
  obtain ⟨hwf, rfl⟩ := fresh_of_construct_eq_ok h
  exact State.fresh_inv hwf

/-- Settles O47: a step waits, hands back a reply, or runs an instruction, which commits a magnitude to a register or to
a cell below `MEMSIZE`; each keeps the invariant. -/
theorem everyStepKeepsTheInvariant : Obligations.EveryStepKeepsTheInvariant :=
  fun _ _ => step_preserves_inv

/-! ### The configuration and the key set -/

/-- The part of the state that is fixed for the lifetime of the engine: the configuration and the register count. -/
def State.SameShape (s t : State) : Prop := t.cfg = s.cfg ∧ t.regs.length = s.regs.length

theorem exec_sameShape {i : Instr} {s t : State} (h : exec i s = .next t) : s.SameShape t := by
  rcases exec_next_cases h with ⟨e, rfl⟩ | ⟨k, r, f, _, rfl⟩ | ⟨a, x, _, rfl⟩
  · exact ⟨rfl, rfl⟩
  · exact ⟨rfl, List.length_set⟩
  · exact ⟨rfl, rfl⟩

theorem serve_sameShape {r : Request} {s t : State} (h : serve r s = .next t) : s.SameShape t := by
  rcases serve_cases h with ⟨p, rfl⟩ | ⟨_, i, _, _, hi⟩
  · exact ⟨rfl, rfl⟩
  · exact exec_sameShape hi

theorem step_sameShape {s t : State} (h : step s = .next t) : s.SameShape t := by
  obtain ⟨_, ⟨_, rfl⟩ | ⟨r, rest, _, hr⟩⟩ := step_cases h
  · exact ⟨rfl, rfl⟩
  · exact serve_sameShape (s := { s with pending := rest }) hr

/-- The key set is a matter of the configuration alone (10_state.md R23). -/
theorem IsKey_congr {s t : State} (h : t.cfg = s.cfg) (tok : Token) (i : Nat) : IsKey t tok i ↔ IsKey s tok i := by
  rw [IsKey, IsKey, h]

/-- Settles O50: a step keeps the configuration and the register count, and the configuration gives the keys. -/
theorem configurationIsFixed : Obligations.ConfigurationIsFixed := by
  intro s t h
  obtain ⟨hcfg, hlen⟩ := step_sameShape h
  exact ⟨hcfg, hlen, IsKey_congr hcfg⟩

theorem runFor_cfg {k : Nat} {s t : State} (h : runFor k s = .next t) : t.cfg = s.cfg :=
  runFor_preserves (P := fun u => u.cfg = s.cfg) (fun _ _ hu hstep => (step_sameShape hstep).1.trans hu) rfl h

/-! ### A step of an engine gives a state -/

theorem serve_gives_state (r : Request) (s : State) : ∃ t, serve r s = .next t := by
  cases r with
  | dump => exact ⟨_, rfl⟩
  | execute line =>
    cases hd : decode line with
    | error e => exact ⟨s.raise e, by rw [serve, executeLine, hd]⟩
    | ok i =>
      obtain ⟨t, ht, _⟩ := exec_replies_ok_or_err i s
      exact ⟨t, by rw [serve, executeLine, hd]; exact ht⟩

theorem step_gives_state {s : State} (hw : s.cfg.wf = true) : ∃ t, step s = .next t := by
  cases hp : s.pending with
  | nil => exact ⟨s, step_eq_self hw hp⟩
  | cons r rest =>
    rw [step_eq_serve hw hp]
    exact serve_gives_state r _

theorem runFor_gives_state {s : State} (k : Nat) (hw : s.cfg.wf = true) : ∃ t, runFor k s = .next t := by
  induction k generalizing s with
  | zero => exact ⟨s, rfl⟩
  | succ k ih =>
    obtain ⟨u, hu⟩ := step_gives_state hw
    rw [runFor_succ_of_step k hu]
    exact ih ((step_sameShape hu).1 ▸ hw)

/-- Settles O4: each step gives a state of the same configuration, so the next one does; an illegal configuration is
refused by the first test of a step. -/
theorem theEngineNeverStops : Obligations.TheEngineNeverStops := by
  refine ⟨fun s k hw => ?_, fun s hw => by simp [step, hw]⟩
  obtain ⟨t, ht⟩ := runFor_gives_state k hw
  exact ⟨t, ht, runFor_cfg ht⟩

/-! ### One step -/

/-- Settles O1. -/
theorem stepRunsTheDecodedInstruction : Obligations.StepRunsTheDecodedInstruction :=
  fun _ _ _ _ => step_of_decode_ok

/-- Settles O2. -/
theorem stepReturnsTheDecodersError : Obligations.StepReturnsTheDecodersError :=
  fun _ _ _ _ => step_of_decode_error

theorem decode_of_decodeTableWord {nbits w : Nat} {i : Instr} (h : decodeTableWord nbits w = some i) :
    decode (tableLine nbits w) = .ok i := by
  rw [decodeTableWord] at h
  split at h
  next j hj => exact hj.trans (congrArg _ (Option.some.inj h))
  · cases h

/-- Settles O3: the line of the table word is the first request, and taking it gives the state back. -/
theorem fetchWordRunsTheTableInstruction : Obligations.FetchWordRunsTheTableInstruction :=
  fun s nbits w _ hw hi =>
    step_of_decode_ok (s := s.withFetchWord nbits w) (rest := s.pending) hw rfl (decode_of_decodeTableWord hi)

/-! ### Cells that no address reaches -/

/-- Every listed cell has an index that `WIDTH` bits can address (20_memory.md R54). -/
def State.CellsAddressable (s : State) : Prop := ∀ c ∈ s.mem, c.1 < 2 ^ s.cfg.width

/-- The one cell an instruction can add is that of `STORE`, whose address is an operand value, so a magnitude. -/
theorem exec_cellsAddressable {i : Instr} {s t : State} (hinv : s.Inv) (hs : s.CellsAddressable)
    (h : exec i s = .next t) : t.CellsAddressable := by
  rcases exec_next_cases h with ⟨e, rfl⟩ | ⟨k, r, f, _, rfl⟩ | ⟨a, x, ⟨_, _, _, _, ha, _, _⟩, rfl⟩
  · exact hs
  · exact hs
  · intro c hc
    rcases Memory.mem_write hc with rfl | hold
    · exact State.getValue_lt hinv.regRange ha
    · exact hs c hold

theorem step_cellsAddressable {s t : State} (hinv : s.Inv) (hs : s.CellsAddressable) (h : step s = .next t) :
    t.CellsAddressable := by
  obtain ⟨_, ⟨_, rfl⟩ | ⟨r, rest, _, hr⟩⟩ := step_cases h
  · exact hs
  · rcases serve_cases hr with ⟨p, rfl⟩ | ⟨_, i, _, _, hi⟩
    · exact hs
    · exact exec_cellsAddressable (hinv.setPending rest) hs hi

theorem runFor_cellsAddressable {k : Nat} {s t : State} (hinv : s.Inv) (hs : s.CellsAddressable)
    (h : runFor k s = .next t) : t.CellsAddressable :=
  (runFor_preserves (P := fun u => u.Inv ∧ u.CellsAddressable)
    (fun _ _ ⟨hu, hcells⟩ hstep => ⟨step_preserves_inv hu hstep, step_cellsAddressable hu hcells hstep⟩)
    ⟨hinv, hs⟩ h).2

/-- A cell at or above a bound on the listed indices reads 0. -/
theorem Memory.read_eq_zero_of_bound {m : Memory} {bound a : Nat} (h : ∀ c ∈ m, c.1 < bound) (ha : bound ≤ a) :
    m.read a = 0 := by
  rcases m.read_eq_zero_or_mem a with h0 | hmem
  · exact h0
  · exact absurd (h _ hmem) (not_lt.mpr ha)

/-- Settles O45: a run from a new engine lists cells only below `2 ^ WIDTH` and below `MEMSIZE`. -/
theorem unreachableCellsStayZero : Obligations.UnreachableCellsStayZero := by
  intro c script k t a hc hrun ha
  have hinit : ((State.fresh c).submit script).Inv := (State.fresh_inv hc).submit script
  have hcells : t.CellsAddressable := runFor_cellsAddressable hinit (by simp [State.CellsAddressable]) hrun
  have hcfg : t.cfg = c := runFor_cfg hrun
  rcases ha with haddr | hsize
  · exact Memory.read_eq_zero_of_bound hcells (hcfg ▸ haddr)
  · exact Memory.read_eq_zero_of_bound (runFor_preserves_inv hinit hrun).memBound (hcfg ▸ hsize)

end Sys2Proof.Machine
end

section
/-! SUPPORT. The decoder, each function said once: the tokens of a line, comma stripping, opcode selection, and the
assembly of an instruction from its operand tokens (30_encoding.md R71 to R79, R95). -/

namespace Sys2Proof

/-! ### Tokens -/

theorem isSpace_iff {b : Byte} : isSpace b = true ↔ Machine.IsWhitespace b := by
  simp [isSpace, Machine.IsWhitespace, ← BitVec.toNat_inj, or_assoc]

theorem not_isSpace_iff {b : Byte} : isSpace b = false ↔ ¬ Machine.IsWhitespace b := by
  rw [← isSpace_iff, Bool.not_eq_true]

@[simp] theorem tokens_nil : tokens [] = [] := rfl

theorem splitRun_cons_space {b : Byte} (bs : Text) (hb : isSpace b = true) : splitRun (b :: bs) = ([], tokens bs) := by
  simp [splitRun, hb, tokens]

theorem splitRun_cons_not_space {b : Byte} (bs : Text) (hb : isSpace b = false) :
    splitRun (b :: bs) = (b :: (splitRun bs).1, (splitRun bs).2) := by
  simp [splitRun, hb]

/-- Whitespace at the front of a line separates nothing. -/
theorem tokens_cons_space {b : Byte} (bs : Text) (hb : isSpace b = true) : tokens (b :: bs) = tokens bs := by
  rw [tokens, splitRun_cons_space bs hb]
  rfl

theorem tokens_cons_not_space {b : Byte} (bs : Text) (hb : isSpace b = false) :
    tokens (b :: bs) = (b :: (splitRun bs).1) :: (splitRun bs).2 := by
  rw [tokens, splitRun_cons_not_space bs hb]
  rfl

theorem tokens_spaces_append {ws : Text} (hws : ∀ b ∈ ws, isSpace b = true) (rest : Text) :
    tokens (ws ++ rest) = tokens rest := by
  induction ws with
  | nil => rfl
  | cons b bs ih =>
    obtain ⟨hb, hbs⟩ := List.forall_mem_cons.mp hws
    rw [List.cons_append, tokens_cons_space _ hb, ih hbs]

/-- A line has no token exactly when all of it is whitespace (30_encoding.md R72). -/
theorem tokens_eq_nil_iff {line : Text} : tokens line = [] ↔ ∀ b ∈ line, isSpace b = true := by
  induction line with
  | nil => simp
  | cons b bs ih =>
    cases hb : isSpace b with
    | true => simp [tokens_cons_space bs hb, hb, ih]
    | false => simp [tokens_cons_not_space bs hb, hb]

/-- Text before which a run of token characters ends: the end of the line, or whitespace. -/
def EndsRun (rest : Text) : Prop := ∀ b, rest.head? = some b → isSpace b = true

theorem splitRun_of_endsRun {rest : Text} (h : EndsRun rest) : splitRun rest = ([], tokens rest) := by
  cases rest with
  | nil => rfl
  | cons b bs => rw [tokens_cons_space bs (h b rfl), splitRun_cons_space bs (h b rfl)]

theorem splitRun_run_append {run rest : Text} (hrun : ∀ b ∈ run, isSpace b = false) (hrest : EndsRun rest) :
    splitRun (run ++ rest) = (run, tokens rest) := by
  induction run with
  | nil => exact splitRun_of_endsRun hrest
  | cons b bs ih =>
    obtain ⟨hb, hbs⟩ := List.forall_mem_cons.mp hrun
    rw [List.cons_append, splitRun_cons_not_space _ hb, ih hbs]

/-- A maximal run of token characters is a token. -/
theorem tokens_run_append {run rest : Text} (hne : run ≠ []) (hrun : ∀ b ∈ run, isSpace b = false)
    (hrest : EndsRun rest) : tokens (run ++ rest) = run :: tokens rest := by
  rw [tokens, splitRun_run_append hrun hrest]
  simp [consToken, hne]

/-- A pair of a separator and a token: whitespace, then token characters, at least one of each. -/
def IsSeparatedToken (p : Text × Token) : Prop :=
  p.1 ≠ [] ∧ (∀ b ∈ p.1, isSpace b = true) ∧ p.2 ≠ [] ∧ ∀ b ∈ p.2, isSpace b = false

theorem endsRun_of_spaces {ws : Text} (h : ∀ b ∈ ws, isSpace b = true) : EndsRun ws :=
  fun _ hb => h _ (List.mem_of_head? hb)

theorem endsRun_spaces_append {ws : Text} (hne : ws ≠ []) (h : ∀ b ∈ ws, isSpace b = true) (rest : Text) :
    EndsRun (ws ++ rest) := by
  intro b hb
  rw [List.head?_append_of_ne_nil _ hne] at hb
  exact h b (List.mem_of_head? hb)

/-- A first token and separated tokens after it are the tokens of the line, whatever whitespace ends it. -/
theorem tokens_separated {trail : Text} (htrail : ∀ b ∈ trail, isSpace b = true) {first : Token}
    {more : List (Text × Token)} (hne : first ≠ []) (hfirst : ∀ b ∈ first, isSpace b = false)
    (hmore : ∀ p ∈ more, IsSeparatedToken p) :
    tokens (first ++ (more.flatMap (fun p => p.1 ++ p.2) ++ trail)) = first :: more.map Prod.snd := by
  induction more generalizing first with
  | nil =>
    rw [List.flatMap_nil, List.nil_append, tokens_run_append hne hfirst (endsRun_of_spaces htrail),
      tokens_eq_nil_iff.mpr htrail, List.map_nil]
  | cons p more ih =>
    obtain ⟨⟨hsepne, hsep, htokne, htok⟩, hrest⟩ := List.forall_mem_cons.mp hmore
    simp only [List.flatMap_cons, List.append_assoc, List.map_cons]
    rw [tokens_run_append hne hfirst (endsRun_spaces_append hsepne hsep _), tokens_spaces_append hsep,
      ih htokne htok hrest]

/-- No token holds whitespace; the run that `splitRun` has begun counts as one. -/
theorem splitRun_not_space (line : Text) :
    (∀ b ∈ (splitRun line).1, isSpace b = false) ∧ ∀ t ∈ (splitRun line).2, ∀ b ∈ t, isSpace b = false := by
  induction line with
  | nil => simp [splitRun]
  | cons b bs ih =>
    obtain ⟨hrun, hrest⟩ := ih
    cases hb : isSpace b with
    | false =>
      rw [splitRun_cons_not_space bs hb]
      exact ⟨List.forall_mem_cons.mpr ⟨hb, hrun⟩, hrest⟩
    | true =>
      rw [splitRun_cons_space bs hb, tokens, consToken]
      refine ⟨by simp, ?_⟩
      split
      · exact hrest
      · exact List.forall_mem_cons.mpr ⟨hrun, hrest⟩

theorem tokens_not_space {line : Text} {t : Token} (ht : t ∈ tokens line) : ∀ b ∈ t, isSpace b = false := by
  obtain ⟨hrun, hrest⟩ := splitRun_not_space line
  rw [tokens, consToken] at ht
  split at ht
  · exact hrest t ht
  · exact List.forall_mem_cons.mpr ⟨hrun, hrest⟩ t ht

/-! ### Comma stripping -/

/-- What is stripped from a token is commas at its end (30_encoding.md R75). -/
theorem exists_eq_stripCommas_append (t : Token) : ∃ k, t = stripCommas t ++ List.replicate k commaByte := by
  induction t with
  | nil => exact ⟨0, rfl⟩
  | cons b bs ih =>
    obtain ⟨k, hk⟩ := ih
    rw [stripCommas]
    split
    next h =>
      obtain ⟨hempty, rfl⟩ : stripCommas bs = [] ∧ b = commaByte := by simpa using h
      rw [hempty] at hk
      exact ⟨k + 1, congrArg (commaByte :: ·) hk⟩
    · exact ⟨k, congrArg (b :: ·) hk⟩

/-- No comma is left at the end. -/
theorem getLast?_stripCommas_ne (t : Token) : (stripCommas t).getLast? ≠ some commaByte := by
  induction t with
  | nil => simp [stripCommas]
  | cons b bs ih =>
    rw [stripCommas]
    split
    · simp
    next h =>
      cases hr : stripCommas bs with
      | nil => simpa [hr] using h
      | cons c cs =>
        rw [hr] at ih
        rwa [List.getLast?_cons_cons]

theorem stripCommas_of_noFinalComma {t : Token} (h : noFinalComma t = true) : stripCommas t = t := by
  obtain ⟨k, hk⟩ := exists_eq_stripCommas_append t
  cases k with
  | zero => simpa using hk.symm
  | succ k =>
    rw [List.replicate_succ', ← List.append_assoc] at hk
    rw [noFinalComma, hk, List.getLast?_concat] at h
    cases h

theorem operandWf_iff {t : Token} :
    operandWf t = true ↔ (∀ b ∈ t, isSpace b = false) ∧ noFinalComma t = true := by
  simp [operandWf, noSpace]

theorem operandWf_stripCommas {t : Token} (h : ∀ b ∈ t, isSpace b = false) : operandWf (stripCommas t) = true := by
  obtain ⟨k, hk⟩ := exists_eq_stripCommas_append t
  refine operandWf_iff.mpr ⟨fun b hb => h b ?_, by simpa [noFinalComma] using getLast?_stripCommas_ne t⟩
  rw [hk]
  exact List.mem_append_left _ hb

/-! ### Opcode selection -/

theorem upper_mnemonic (op : Op) : upper op.mnemonic = op.mnemonic := by cases op <;> decide

/-- The folded token is the mnemonic (30_encoding.md R73). -/
theorem selectOp_eq_some_iff {t0 : Token} {op : Op} : selectOp t0 = some op ↔ upper t0 = op.mnemonic := by
  constructor
  · intro h
    rw [selectOp] at h
    have hmatch := List.find?_some h
    exact (beq_iff_eq.mp hmatch).symm
  · intro h
    have hsame : selectOp t0 = selectOp op.mnemonic := by rw [selectOp, selectOp, h, upper_mnemonic]
    rw [hsame, Laws.selectOp_mnemonic]

theorem selectOp_eq_none {t0 : Token} (h : ∀ op : Op, upper t0 ≠ op.mnemonic) : selectOp t0 = none := by
  cases hop : selectOp t0 with
  | none => rfl
  | some op => exact absurd (selectOp_eq_some_iff.mp hop) (h op)

/-! ### Assembly -/

theorem oneOperand_eq_some {f : Token → Instr} {ts : List Token} {i : Instr} (h : oneOperand f ts = some i) :
    ∃ d, ts = [d] ∧ i = f d := by
  unfold oneOperand at h
  split at h
  · exact ⟨_, rfl, (Option.some.inj h).symm⟩
  · cases h

theorem twoOperands_eq_some {f : Token → Token → Instr} {ts : List Token} {i : Instr}
    (h : twoOperands f ts = some i) : ∃ a b, ts = [a, b] ∧ i = f a b := by
  unfold twoOperands at h
  split at h
  · exact ⟨_, _, rfl, (Option.some.inj h).symm⟩
  · cases h

theorem assemble_op_operands (i : Instr) : assemble i.op i.operands = some i := by cases i <;> rfl

/-- Assembly puts the operation and the operand tokens together, and nothing else. -/
theorem assemble_eq_some_iff {op : Op} {ts : List Token} {i : Instr} :
    assemble op ts = some i ↔ i.op = op ∧ i.operands = ts := by
  constructor
  · intro h
    cases op with
    | not =>
      obtain ⟨d, rfl, rfl⟩ := oneOperand_eq_some h
      exact ⟨rfl, rfl⟩
    | mov | add | sub | mul | div | and | or | xor | shl | shr | load | store =>
      obtain ⟨a, b, rfl, rfl⟩ := twoOperands_eq_some h
      exact ⟨rfl, rfl⟩
  · rintro ⟨rfl, rfl⟩
    exact assemble_op_operands i

theorem Instr.operands_length (i : Instr) : i.operands.length = i.op.operandCount := by cases i <;> rfl

theorem assemble_eq_none {op : Op} {ts : List Token} (h : ts.length ≠ op.operandCount) : assemble op ts = none := by
  cases hi : assemble op ts with
  | none => rfl
  | some i =>
    obtain ⟨rfl, rfl⟩ := assemble_eq_some_iff.mp hi
    exact absurd i.operands_length h

/-! ### The decoder -/

theorem decode_of_no_tokens {line : Text} (h : tokens line = []) : decode line = .error .emptyInstruction := by
  rw [decode, h]

theorem decode_of_unknown_opcode {line : Text} {t0 : Token} {ts : List Token} (h : tokens line = t0 :: ts)
    (hop : selectOp t0 = none) : decode line = .error .unknownInstruction := by
  simp [decode, h, hop]

theorem decode_of_wrong_count {line : Text} {t0 : Token} {ts : List Token} {op : Op} (h : tokens line = t0 :: ts)
    (hop : selectOp t0 = some op) (hi : assemble op (ts.map stripCommas) = none) :
    decode line = .error .invalidOperand := by
  simp [decode, h, hop, hi]

/-- A line decodes to an instruction exactly when its token 0 selects the operation and the others, stripped, are the
operands. -/
theorem decode_eq_ok_iff {line : Text} {i : Instr} :
    decode line = .ok i ↔
      ∃ t0 ts, tokens line = t0 :: ts ∧ selectOp t0 = some i.op ∧ ts.map stripCommas = i.operands := by
  constructor
  · intro h
    cases ht : tokens line with
    | nil => cases (decode_of_no_tokens ht).symm.trans h
    | cons t0 ts =>
      cases hop : selectOp t0 with
      | none => cases (decode_of_unknown_opcode ht hop).symm.trans h
      | some op =>
        cases hi : assemble op (ts.map stripCommas) with
        | none => cases (decode_of_wrong_count ht hop hi).symm.trans h
        | some j =>
          have hj : j = i := by simpa [decode, ht, hop, hi] using h
          obtain ⟨rfl, hoperands⟩ := assemble_eq_some_iff.mp hi
          subst hj
          exact ⟨t0, ts, rfl, hop, hoperands.symm⟩
  · rintro ⟨t0, ts, ht, hop, hoperands⟩
    simp [decode, ht, hop, hoperands, assemble_op_operands]

/-- Only a line without tokens is the empty instruction. -/
theorem decode_ne_empty {line : Text} (h : tokens line ≠ []) : decode line ≠ .error .emptyInstruction := by
  intro hd
  rw [decode] at hd
  split at hd
  next ht => exact h ht
  · split at hd
    · cases hd
    · split at hd <;> cases hd

end Sys2Proof
end

section
/-! PROOF. The decoder and the encoder: the errors of the decoder (30_encoding.md R72 to R79), its tokens (R71, R75), the
opcode match (R95), and that decoding undoes encoding (R96, R99). -/

namespace Sys2Proof

open Machine

/-! ### The errors of the decoder -/

/-- No instruction answers `EmptyInstruction`: that is the decoder's error. -/
theorem exec_reply_ne_empty {i : Instr} {s t : State} (h : exec i s = .next t) :
    t.reply ≠ some (.err .emptyInstruction) := by
  intro he
  rcases exec_error_cases h he with (hne | hne) | ⟨hne, _⟩ | ⟨hne, _⟩ <;> cases hne

/-- Settles O5: a line of whitespace has no token; any other has one, and then neither the decoder nor the instruction
answers `EmptyInstruction`. -/
theorem emptyLineIsEmptyInstruction : Obligations.EmptyLineIsEmptyInstruction := by
  intro s line rest hw hp
  constructor
  · intro hspaces
    have hno : tokens line = [] := tokens_eq_nil_iff.mpr fun b hb => isSpace_iff.mpr (hspaces b hb)
    exact step_of_decode_error hw hp (decode_of_no_tokens hno)
  · rintro ⟨b, hb, hnot⟩
    have hsome : tokens line ≠ [] := fun hno => hnot (isSpace_iff.mp (tokens_eq_nil_iff.mp hno b hb))
    cases hd : decode line with
    | error e =>
      refine ⟨_, step_of_decode_error hw hp hd, fun he => decode_ne_empty hsome ?_⟩
      obtain rfl : e = .emptyInstruction := by simpa using he
      exact hd
    | ok i =>
      obtain ⟨t, ht, _⟩ := exec_replies_ok_or_err i { s with pending := rest }
      exact ⟨t, (step_of_decode_ok hw hp hd).trans ht, exec_reply_ne_empty ht⟩

/-- Settles O6: a token that is no mnemonic selects no operation, before any operand is looked at. -/
theorem unknownOpcodeIsUnknownInstruction : Obligations.UnknownOpcodeIsUnknownInstruction :=
  fun _ _ _ _ _ hw hp ht hop => step_of_decode_error hw hp (decode_of_unknown_opcode ht (selectOp_eq_none hop))

/-- Settles O7: stripping keeps the number of operand tokens, and a wrong number assembles to nothing. -/
theorem wrongOperandCountIsInvalidOperand : Obligations.WrongOperandCountIsInvalidOperand := by
  intro s line rest t0 ts op hw hp ht hop hcount
  have hnone : assemble op (ts.map stripCommas) = none := assemble_eq_none (by rwa [List.length_map])
  exact step_of_decode_error hw hp (decode_of_wrong_count ht (selectOp_eq_some_iff.mpr hop) hnone)

/-! ### Tokens and commas -/

/-- Settles O8: the whitespace in front is skipped, and each token ends where the next whitespace begins. -/
theorem tokensAreSeparatedByAnyWhitespace : Obligations.TokensAreSeparatedByAnyWhitespace := by
  intro lead trail first more hlead htrail hne hfirst hmore
  rw [List.append_assoc, List.append_assoc, tokens_spaces_append fun b hb => isSpace_iff.mpr (hlead b hb)]
  refine tokens_separated (fun b hb => isSpace_iff.mpr (htrail b hb)) hne
    (fun b hb => not_isSpace_iff.mpr (hfirst b hb)) fun p hp => ?_
  obtain ⟨hsepne, hsep, htokne, htok⟩ := hmore p hp
  exact ⟨hsepne, fun b hb => isSpace_iff.mpr (hsep b hb), htokne, fun b hb => not_isSpace_iff.mpr (htok b hb)⟩

/-- Settles O9: what is stripped is commas, and no comma is left at the end. -/
theorem exactlyTheTrailingCommasAreStripped : Obligations.ExactlyTheTrailingCommasAreStripped := by
  intro t
  obtain ⟨k, hk⟩ := exists_eq_stripCommas_append t
  exact ⟨k, hk, getLast?_stripCommas_ne t⟩

/-! ### The opcode match -/

/-- An upper-case ASCII letter. -/
def IsUpperLetter (c : Byte) : Prop := 0x41 ≤ c ∧ c ≤ 0x5A

/-- Folding a byte and clearing its bit 5 agree wherever one of them gives an upper-case letter. -/
theorem upperByte_eq_mask : ∀ b : Byte,
    (0x41 ≤ upperByte b ∧ upperByte b ≤ 0x5A) ∨ (0x41 ≤ b &&& 0xDF ∧ b &&& 0xDF ≤ 0x5A) →
      upperByte b = b &&& 0xDF := by decide

theorem upperByte_eq_iff_mask_eq {b c : Byte} (hc : IsUpperLetter c) : upperByte b = c ↔ b &&& 0xDF = c := by
  constructor
  · rintro rfl
    exact (upperByte_eq_mask b (.inl hc)).symm
  · rintro rfl
    exact upperByte_eq_mask b (.inr hc)

theorem mnemonic_letters (op : Op) : ∀ c ∈ op.mnemonic, IsUpperLetter c := by
  cases op <;> simp [Op.mnemonic, IsUpperLetter]

/-- Two maps give the same list `m` when each byte of `m` comes from the same bytes under both. -/
theorem map_eq_iff_of_forall_mem {f g : Byte → Byte} {m : Text} (h : ∀ c ∈ m, ∀ b, f b = c ↔ g b = c) (t : Token) :
    t.map f = m ↔ t.map g = m := by
  induction t generalizing m with
  | nil => rfl
  | cons b bs ih =>
    cases m with
    | nil => simp
    | cons c cs =>
      obtain ⟨hc, hcs⟩ := List.forall_mem_cons.mp h
      rw [List.map_cons, List.map_cons, List.cons_eq_cons, List.cons_eq_cons, hc b, ih hcs]

/-- Settles O10: every byte of a mnemonic is an upper-case letter, where folding is the mask. -/
theorem opcodeSelectionIsTheMaskedMatch : Obligations.OpcodeSelectionIsTheMaskedMatch := by
  intro t0 op
  rw [selectOp_eq_some_iff]
  exact map_eq_iff_of_forall_mem (fun c hc _ => upperByte_eq_iff_mask_eq (mnemonic_letters op c hc)) t0

/-! ### Decoding and encoding -/

/-- Settles O12: the operands of a decoded instruction are tokens of the line, stripped. -/
theorem decodedInstructionsAreWellFormed : Obligations.DecodedInstructionsAreWellFormed := by
  intro line i h
  obtain ⟨t0, ts, htokens, _, hoperands⟩ := decode_eq_ok_iff.mp h
  rw [Instr.wf, ← hoperands, List.all_map, List.all_eq_true]
  intro t ht
  exact operandWf_stripCommas (tokens_not_space (line := line) (htokens ▸ List.mem_cons_of_mem t0 ht))

theorem stripCommas_encodeToken {t : Token} (h : operandWf t = true) : stripCommas (encodeToken t) = t := by
  cases t with
  | nil => rfl
  | cons b bs => exact stripCommas_of_noFinalComma (operandWf_iff.mp h).2

/-- An encoded operand is a token after a separator. -/
theorem isSeparatedToken_encodeToken {t : Token} (h : operandWf t = true) :
    IsSeparatedToken ([spaceByte], encodeToken t) := by
  refine ⟨by simp, by simp [isSpace], ?_⟩
  cases t with
  | nil => exact ⟨by simp [encodeToken], by simp [encodeToken, isSpace]⟩
  | cons b bs => exact ⟨by simp [encodeToken], (operandWf_iff.mp h).1⟩

theorem encodeOperands_eq_flatMap (ts : List Token) :
    encodeOperands ts = (ts.map fun t => ([spaceByte], encodeToken t)).flatMap fun p => p.1 ++ p.2 := by
  induction ts with
  | nil => rfl
  | cons t ts ih => simp [encodeOperands, ih]

theorem mnemonic_token (op : Op) : op.mnemonic ≠ [] ∧ ∀ b ∈ op.mnemonic, isSpace b = false := by
  cases op <;> simp [Op.mnemonic, isSpace]

/-- The tokens of a canonical line are the mnemonic and the encoded operands. -/
theorem tokens_encode {i : Instr} (h : i.wf = true) :
    tokens (encode i) = i.op.mnemonic :: i.operands.map encodeToken := by
  obtain ⟨hne, hletters⟩ := mnemonic_token i.op
  have hoperands : ∀ p ∈ i.operands.map fun t => ([spaceByte], encodeToken t), IsSeparatedToken p :=
    List.forall_mem_map.mpr fun t ht => isSeparatedToken_encodeToken (List.all_eq_true.mp h t ht)
  have hline := tokens_separated (trail := []) (by simp) hne hletters hoperands
  rwa [List.append_nil, ← encodeOperands_eq_flatMap, List.map_map] at hline

/-- Settles O11: the tokens of the canonical line are the mnemonic, which selects the operation, and the encoded
operands, which strip to the operands. -/
theorem decodeEncodeIsTheInstruction : Obligations.DecodeEncodeIsTheInstruction := by
  intro i h
  refine decode_eq_ok_iff.mpr ⟨_, _, tokens_encode h, Laws.selectOp_mnemonic i.op, ?_⟩
  rw [List.map_map]
  exact (List.map_congr_left fun t ht => stripCommas_encodeToken (List.all_eq_true.mp h t ht)).trans (List.map_id' _)

/-- Settles O13. -/
theorem writtenOutLinesDecode : Obligations.WrittenOutLinesDecode :=
  ⟨by decide, by decide, by decide, by decide, by decide⟩

end Sys2Proof
end

section
/-! PROOF. Operand resolution in the words of the spec: keys (10_state.md R23), literals (30_encoding.md R86, R87),
sources (R85), and which operand's error is returned (R80; 60_exceptions.md R245). -/

namespace Sys2Proof.Machine

/-! ### Keys, literals, sources -/

/-- Settles O14: resolving a key and reading a key back, in an engine of `n` registers. -/
theorem registerKeysAreExactlyTheNames : Obligations.RegisterKeysAreExactlyTheNames :=
  fun n _ _ => ⟨isKey_of_keyIndex (s := State.fresh ⟨1, n, 0⟩), IsKey.keyIndex_eq (s := State.fresh ⟨1, n, 0⟩)⟩

/-- Settles O15. -/
theorem literalsAreExactlyTheGrammar : Obligations.LiteralsAreExactlyTheGrammar :=
  fun _ _ => ⟨isLiteral_of_literalValue, IsLiteral.literalValue_eq⟩

theorem notKey_iff {s : State} {t : Token} : NotKey s t ↔ keyIndex s.cfg.nregs t = none := by
  rw [Option.eq_none_iff_forall_ne_some]
  exact forall_congr' fun i => not_congr ⟨IsKey.keyIndex_eq, isKey_of_keyIndex⟩

theorem not_literal_iff {t : Token} : (∀ v, ¬ IsLiteral t v) ↔ literalValue t = none := by
  rw [Option.eq_none_iff_forall_ne_some]
  exact forall_congr' fun v => not_congr ⟨IsLiteral.literalValue_eq, isLiteral_of_literalValue⟩

theorem beginsLikeRegister_iff {t : Token} :
    beginsLikeRegister t = true ↔ t.head? = some 0x52 ∨ t.head? = some 0x72 := by
  simp [beginsLikeRegister]

/-- A source is refused by resolution exactly as the spec says: first by its first letter, then as no literal. -/
theorem sourceError_iff {s : State} {t : Token} {e : ExecutionError} :
    SourceError s t e ↔ s.getValue t = .error e := by
  rw [SourceError, State.getValue, notKey_iff, not_literal_iff, ← beginsLikeRegister_iff, ← and_assoc, ← not_or,
    ← beginsLikeRegister_iff]
  cases keyIndex s.cfg.nregs t with
  | some i => simp
  | none =>
    cases beginsLikeRegister t with
    | true => simp [eq_comm]
    | false => cases literalValue t <;> simp [eq_comm]

/-- Settles O16. -/
theorem sourceResolutionHasFourOutcomes : Obligations.SourceResolutionHasFourOutcomes :=
  fun _ _ => ⟨fun _ => ⟨SourceValue.getValue_eq, sourceValue_of_getValue⟩, fun _ => sourceError_iff⟩

/-! ### The operand whose error is returned -/

theorem destination_of_notKey {s : State} {d : Token} (h : NotKey s d) :
    s.destination d = .error .unknownRegister :=
  State.destination_eq_error.mpr ⟨notKey_iff.mp h, rfl⟩

theorem destSource_of_notKey {s : State} {d : Token} (src : Token) (h : NotKey s d) :
    s.destSource d src = .error .unknownRegister := by
  rw [State.destSource, destination_of_notKey h]

theorem destSource_of_sourceError {s : State} {d src : Token} {k : Nat} {e : ExecutionError} (hd : IsKey s d k)
    (he : SourceError s src e) : s.destSource d src = .error e := by
  rw [State.destSource, State.destination_eq_ok.mpr hd.keyIndex_eq, sourceError_iff.mp he]

theorem dataAddress_of_dataError {s : State} {v : Token} {e : ExecutionError} (m : Token) (he : SourceError s v e) :
    s.dataAddress v m = .error e := by
  rw [State.dataAddress, sourceError_iff.mp he]

theorem dataAddress_of_addressError {s : State} {v m : Token} {x : Nat} {e : ExecutionError}
    (hv : SourceValue s v x) (he : SourceError s m e) : s.dataAddress v m = .error e := by
  rw [State.dataAddress, hv.getValue_eq, sourceError_iff.mp he]

/-- An error of the operands is the whole answer, whatever the operation is. -/
theorem complete_bind_of_error {α : Type} (s : State) {x : Except ExecutionError α} {e : ExecutionError}
    (hx : x = .error e) (k : α → Except ExecutionError State) : s.complete (x.bind k) = .next (s.erred e) := by
  rw [hx]
  rfl

/-- Every instruction with a destination and a source resolves the two in that order and then computes. -/
theorem exec_eq_complete_destSource {i : Instr} {d src : Token} (s : State) (hd : i.destination? = some d)
    (hsrc : i.second? = some src) : ∃ k, exec i s = s.complete ((s.destSource d src).bind k) := by
  cases i with
  | mov | add | sub | mul | div | and | or | xor | shl | shr | load =>
    obtain rfl := Option.some.inj hd
    obtain rfl := Option.some.inj hsrc
    exact ⟨_, rfl⟩
  | not => cases hsrc
  | store => cases hd

/-- `NOT` is the one instruction with a destination and no source. -/
theorem eq_not_of_second?_eq_none {i : Instr} {d : Token} (hd : i.destination? = some d) (hsrc : i.second? = none) :
    i = .not d := by
  cases i with
  | not => exact congrArg _ (Option.some.inj hd)
  | mov | add | sub | mul | div | and | or | xor | shl | shr | load | store => cases hsrc

/-- Settles O17: the destination is resolved first, alone in `NOT` and before the source elsewhere. -/
theorem badDestinationIsUnknownRegister : Obligations.BadDestinationIsUnknownRegister := by
  intro i s d hd hkey
  cases hsrc : i.second? with
  | none =>
    obtain rfl := eq_not_of_second?_eq_none hd hsrc
    exact complete_bind_of_error s (destination_of_notKey hkey) _
  | some src =>
    obtain ⟨k, hk⟩ := exec_eq_complete_destSource s hd hsrc
    rw [hk]
    exact complete_bind_of_error s (destSource_of_notKey src hkey) k

/-- Settles O18: both operands are resolved before the operation divides or tests a bound. -/
theorem badSecondOperandIsReturned : Obligations.BadSecondOperandIsReturned := by
  refine ⟨fun i s d src k e hd hsrc hkey he => ?_, fun s v m x e hv he => ?_⟩
  · obtain ⟨k, hk⟩ := exec_eq_complete_destSource s hd hsrc
    rw [hk]
    exact complete_bind_of_error s (destSource_of_sourceError hkey he) k
  · exact complete_bind_of_error s (dataAddress_of_addressError hv he) _

/-- Settles O19: `STORE` resolves its data before its address. -/
theorem badStoreDataIsReturned : Obligations.BadStoreDataIsReturned :=
  fun s _ m _ he => complete_bind_of_error s (dataAddress_of_dataError m he) _

end Sys2Proof.Machine
end

section
/-! PROOF. The instructions on operands that resolve: result, flags, and everything else unchanged (41_execute_and_move.md
R150, 42_arithmetic.md R160 to R163, 43_logic.md R180 to R183, 44_shift.md R200, R201, 45_memory_ops.md R210, R211). -/

namespace Sys2Proof.Machine

/-! ### Operands that resolve -/

/-- An instruction whose destination is a key and whose source has a value computes from the register's value and that
value. -/
theorem complete_destSource_of_resolves {s : State} {d src : Token} {k b : Nat} (hd : IsKey s d k)
    (hb : SourceValue s src b) (f : DestSource → Except ExecutionError State) :
    s.complete ((s.destSource d src).bind f) = s.complete (f ⟨k, s.readReg k, b⟩) := by
  rw [destSource_of_resolves hd hb]
  rfl

/-- Settles O20. -/
theorem movWritesTheSource : Obligations.MovWritesTheSource :=
  fun _ _ _ _ _ hd hb => complete_destSource_of_resolves hd hb _

/-! ### `ADD` and `SUB` -/

theorem overflowAdd_eq_decide (w a b r : Nat) :
    overflowAdd w a b r =
      decide (a.testBit (w - 1) = b.testBit (w - 1) ∧ r.testBit (w - 1) ≠ a.testBit (w - 1)) := by
  rw [Bool.eq_iff_iff]
  simp [overflowAdd, signBit]

theorem overflowSub_eq_decide (w a b r : Nat) :
    overflowSub w a b r =
      decide (a.testBit (w - 1) ≠ b.testBit (w - 1) ∧ r.testBit (w - 1) ≠ a.testBit (w - 1)) := by
  rw [Bool.eq_iff_iff]
  simp [overflowSub, signBit]

/-- Settles O21. -/
theorem addWritesSumAndFlags : Obligations.AddWritesSumAndFlags := by
  intro s d src k a b r hd hb ha hr
  obtain rfl : r = (Alu.add a b s.cfg.width).1 := by rw [hr, Alu.add_fst]
  rw [exec_add_of_resolves hd hb, ← ha, ← overflowAdd_eq_decide]
  rfl

/-- The masked difference is the residue of the exact one. -/
theorem Alu.sub_fst_cast (a b w : Nat) : (((Alu.sub a b w).1 : Nat) : Int) = ((a : Int) - b) % (2 : Int) ^ w := by
  rw [Alu.sub, Alu.toUnsignedMasked_cast, Nat.cast_pow, Nat.cast_ofNat]

/-- Settles O22. -/
theorem subWritesDifferenceAndFlags : Obligations.SubWritesDifferenceAndFlags := by
  intro s d src k a b r hd hb ha hr
  obtain rfl : r = (Alu.sub a b s.cfg.width).1 := Int.ofNat_inj.mp (by rw [hr, Alu.sub_fst_cast])
  rw [exec_sub_of_resolves hd hb, ← ha, ← overflowSub_eq_decide]
  rfl

/-! ### The instructions that write ZERO and SIGN -/

/-- The state after an instruction that writes the result `r` to register `k`, ZERO and SIGN from it, and nothing else
(10_state.md R34). -/
def State.withResult (s : State) (k r : Nat) : State :=
  { s with
    regs := s.regs.set (k - 1) r
    flags := { s.flags with zero := decide (r = 0), sign := r.testBit (s.cfg.width - 1) }
    reply := some .ok }

theorem State.withResult_eq_commitResult (s : State) (k r : Nat) :
    s.withResult k r = (s.commitResult k r (s.flags.withResult s.cfg.width r)).returnOk := rfl

/-- An instruction that commits the result `res` of its operands with ZERO and SIGN from it gives that state. -/
theorem exec_eq_withResult {i : Instr} {s : State} {d src : Token} {k b r : Nat} {res : Nat → Nat → Nat}
    (he : exec i s = s.complete ((s.destSource d src).bind fun o =>
      .ok (s.commitResult o.dest (res o.a o.b) (s.flags.withResult s.cfg.width (res o.a o.b)))))
    (hd : IsKey s d k) (hb : SourceValue s src b) (hr : r = res (s.readReg k) b) :
    exec i s = .next (s.withResult k r) := by
  rw [he, complete_destSource_of_resolves hd hb, ← hr, State.withResult_eq_commitResult]
  rfl

/-- Settles O23. -/
theorem mulWritesLowWord : Obligations.MulWritesLowWord := by
  rintro s d src k _ b r hd hb rfl hr
  refine exec_eq_withResult (res := fun a b => Alu.mul a b s.cfg.width) rfl hd hb ?_
  rw [hr, Alu.mul_eq]

/-- Settles O24: with a divisor other than 0 the test of `DIV` passes, and the inequalities fix the quotient. -/
theorem divWritesQuotient : Obligations.DivWritesQuotient := by
  rintro s d src k _ b r hd hb rfl hpos hlo hhi
  have hquot : Alu.div (s.readReg k) b = r := Nat.div_eq_of_lt_le hlo hhi
  change execDiv d src s = .next (s.withResult k r)
  rw [execDiv, complete_destSource_of_resolves hd hb, if_neg hpos.ne', hquot]
  rfl

/-- Settles O25. -/
theorem andWritesEachBit : Obligations.AndWritesEachBit := by
  rintro s d src k _ b r hd hb rfl hbits
  refine exec_eq_withResult (res := Alu.and) rfl hd hb (Nat.eq_of_testBit_eq fun j => ?_)
  rw [hbits, Alu.and, Nat.testBit_and]

/-- Settles O26. -/
theorem orWritesEachBit : Obligations.OrWritesEachBit := by
  rintro s d src k _ b r hd hb rfl hbits
  refine exec_eq_withResult (res := Alu.or) rfl hd hb (Nat.eq_of_testBit_eq fun j => ?_)
  rw [hbits, Alu.or, Nat.testBit_or]

/-- Settles O27. -/
theorem xorWritesEachBit : Obligations.XorWritesEachBit := by
  rintro s d src k _ b r hd hb rfl hbits
  refine exec_eq_withResult (res := Alu.xor) rfl hd hb (Nat.eq_of_testBit_eq fun j => ?_)
  rw [hbits, Alu.xor, Nat.testBit_xor]

/-- The complement of a magnitude inverts its `w` bits and has no other (40_alu_primitives.md R119). -/
theorem Alu.testBit_not {a w : Nat} (ha : a < 2 ^ w) (j : Nat) :
    (Alu.not a w).testBit j = (decide (j < w) && !a.testBit j) := by
  rw [Alu.not, Alu.mask, Nat.sub_sub, Nat.add_comm 1 a, Nat.testBit_two_pow_sub_succ ha]

/-- Settles O28: `NOT` resolves its destination only. -/
theorem notInvertsEachBit : Obligations.NotInvertsEachBit := by
  rintro s d k _ r hd rfl ha hbits
  have hr : Alu.not (s.readReg k) s.cfg.width = r :=
    Nat.eq_of_testBit_eq fun j => by rw [Alu.testBit_not ha, hbits]
  change execNot d s = .next (s.withResult k r)
  rw [execNot, State.destination_eq_ok.mpr hd.keyIndex_eq, ← hr]
  rfl

/-- A shift left by `w` or more leaves no bit in the word. -/
theorem mul_two_pow_mod_of_le {w k : Nat} (a : Nat) (h : w ≤ k) : a * 2 ^ k % 2 ^ w = 0 :=
  Nat.mod_eq_zero_of_dvd (Dvd.dvd.mul_left (pow_dvd_pow 2 h) a)

/-- The rule of R120, that an amount of `w` or more gives 0, is no exception to the masked product. -/
theorem Alu.shiftLeft_eq_mul_mod (a k w : Nat) : Alu.shiftLeft a k w = a * 2 ^ k % 2 ^ w := by
  rw [Alu.shiftLeft_eq]
  split
  next h => exact (mul_two_pow_mod_of_le a h).symm
  · rfl

/-- Settles O29. -/
theorem shlWritesShiftedWord : Obligations.ShlWritesShiftedWord := by
  rintro s d src k a b r hd hb rfl hr
  refine ⟨exec_eq_withResult (res := fun a b => Alu.shiftLeft a b s.cfg.width) rfl hd hb ?_,
    fun hle => hr.trans (mul_two_pow_mod_of_le _ hle)⟩
  rw [hr, Alu.shiftLeft_eq_mul_mod]

/-- A shift right of a magnitude by `w` or more leaves no bit. -/
theorem div_two_pow_of_le {a w k : Nat} (ha : a < 2 ^ w) (h : w ≤ k) : a / 2 ^ k = 0 :=
  Nat.div_eq_of_lt (ha.trans_le (Nat.pow_le_pow_right two_pos h))

/-- The rule of R121, that an amount of `w` or more gives 0, is no exception to the quotient of a magnitude. -/
theorem Alu.shiftRight_eq_div {a w : Nat} (ha : a < 2 ^ w) (k : Nat) : Alu.shiftRight a k w = a / 2 ^ k := by
  rw [Alu.shiftRight]
  split
  next h => exact (div_two_pow_of_le ha h).symm
  · rfl

/-- Settles O30. -/
theorem shrWritesShiftedWord : Obligations.ShrWritesShiftedWord := by
  rintro s d src k a b r hd hb rfl ha hr
  refine ⟨exec_eq_withResult (res := fun a b => Alu.shiftRight a b s.cfg.width) rfl hd hb ?_,
    fun hle => hr.trans (div_two_pow_of_le ha hle)⟩
  rw [hr, Alu.shiftRight_eq_div ha]

/-! ### `LOAD` and `STORE` -/

theorem State.inBounds_eq_true {s : State} {a : Nat} (h : a < s.cfg.memsize) : s.inBounds a = true := by
  simpa [State.inBounds] using h

theorem exec_load_inBounds {s : State} {d m : Token} {k ea : Nat} (hd : IsKey s d k) (hm : SourceValue s m ea)
    (hea : ea < s.cfg.memsize) : exec (.load d m) s = .next (s.writeReg k (s.readCell ea)).returnOk := by
  change execLoad d m s = _
  rw [execLoad, complete_destSource_of_resolves hd hm, if_pos (State.inBounds_eq_true hea)]
  rfl

theorem exec_store_inBounds {s : State} {v m : Token} {x ea : Nat} (hv : SourceValue s v x)
    (hm : SourceValue s m ea) (hea : ea < s.cfg.memsize) :
    exec (.store v m) s = .next (s.writeCell ea x).returnOk := by
  change execStore v m s = _
  rw [execStore, dataAddress_of_resolves hv hm, Except.bind, if_pos (State.inBounds_eq_true hea)]
  rfl

/-- Settles O31. -/
theorem loadWritesTheCell : Obligations.LoadWritesTheCell :=
  fun _ _ _ _ _ => exec_load_inBounds

/-- Settles O32: one write to canonical memory. -/
theorem storeWritesExactlyOneCell : Obligations.StoreWritesExactlyOneCell :=
  fun _ _ _ x ea hwf hv hm hea =>
    ⟨_, exec_store_inBounds hv hm hea, rfl, Memory.wf_write ea x hwf, Memory.read_write hwf ea x⟩

/-- Settles O44: memory after the `STORE` reads the stored value there and the old value elsewhere; the operands of the
`LOAD` are resolved in the state before the `STORE`, which differs in memory and reply only. -/
theorem loadReadsTheLastStore : Obligations.LoadReadsTheLastStore := by
  intro s t v m d m' x ea ea' k hinv hv hm hea hstore hd hm' hea'
  obtain rfl := Host.Outcome.next.inj (hstore.symm.trans (exec_store_inBounds hv hm hea))
  refine ⟨_, exec_load_inBounds (s := (s.writeCell ea x).returnOk) hd hm' hea', rfl, ?_⟩
  obtain ⟨hk, hlen⟩ := hd.index_le_length hinv
  exact ((s.writeCell ea x).readReg_writeReg_same k _ hk hlen).trans (Memory.read_write hinv.memCanonical ea x ea')

end Sys2Proof.Machine
end

section
/-! PROOF. What an instruction leaves alone: the other registers, memory, the flags outside its row of the table; and what
it does not read: the flags, the last reply and the later requests (10_state.md R26, R32 to R35; 20_memory.md R51;
60_exceptions.md R241). -/

namespace Sys2Proof.Machine

/-! ### Writes -/

theorem exec_pending {i : Instr} {s t : State} (h : exec i s = .next t) : t.pending = s.pending := by
  rcases exec_next_cases h with ⟨e, rfl⟩ | ⟨k, r, f, _, rfl⟩ | ⟨a, x, _, rfl⟩ <;> simp

/-- The register that is committed is the one whose key is the destination, so every other one keeps its value. -/
theorem exec_readReg_other {i : Instr} {s t : State} {j : Nat} (h : exec i s = .next t) (hj : 1 ≤ j)
    (hd : i.destination? ≠ some (keyName j)) : t.readReg j = s.readReg j := by
  rcases exec_next_cases h with ⟨e, rfl⟩ | ⟨k, r, f, ⟨⟨d, hdest, hkey⟩, _⟩, rfl⟩ | ⟨a, x, _, rfl⟩
  · rfl
  · obtain ⟨hk, _, rfl⟩ := isKey_of_keyIndex hkey
    have hjk : j ≠ k := by
      rintro rfl
      exact hd hdest
    exact State.readReg_writeReg_other s k j r hk hj hjk
  · rfl

/-- The cell that `STORE` commits is the one its second operand addresses, so every other one keeps its value. -/
theorem exec_store_read_other {s t : State} {v m : Token} {ea a : Nat} (hinv : s.Inv)
    (h : exec (.store v m) s = .next t) (hm : SourceValue s m ea) (ha : a ≠ ea) : t.mem.read a = s.mem.read a := by
  rcases exec_next_cases h with ⟨e, rfl⟩ | ⟨k, r, f, ⟨⟨d, hdest, _⟩, _⟩, rfl⟩ |
    ⟨a', x, ⟨v', m', hi, _, haddr, _, _⟩, rfl⟩
  · rfl
  · cases hdest
  · cases hi
    obtain rfl : a' = ea := Except.ok.inj (haddr.symm.trans hm.getValue_eq)
    exact Memory.read_write_other hinv.memCanonical x ha

/-- Settles O51. -/
theorem onlyTheDestinationChanges : Obligations.OnlyTheDestinationChanges := by
  intro i s t hinv h
  refine ⟨fun j hj _ hd => exec_readReg_other h hj hd, fun hi => exec_mem hi h, ?_, (exec_sameShape h).1, exec_pc h,
    exec_pending h⟩
  rintro v m ea a rfl hm ha
  exact exec_store_read_other hinv h hm ha

/-- Settles O53: an error and a `STORE` leave the flag set, and a register commit changes it by the table only. -/
theorem otherFlagsAreRetained : Obligations.OtherFlagsAreRetained := by
  intro i s t h
  rcases exec_next_cases h with ⟨e, rfl⟩ | ⟨k, r, f, ⟨_, _, ⟨_, hzero, hcarry⟩, _⟩, rfl⟩ | ⟨a, x, _, rfl⟩
  · exact ⟨fun _ => ⟨rfl, rfl⟩, fun _ => ⟨rfl, rfl⟩⟩
  · exact ⟨hzero, hcarry⟩
  · exact ⟨fun _ => ⟨rfl, rfl⟩, fun _ => ⟨rfl, rfl⟩⟩

/-! ### One instruction in two states -/

theorem State.destSource_congr {s s' : State} (hcfg : s'.cfg = s.cfg) (hregs : s'.regs = s.regs) (d src : Token) :
    s'.destSource d src = s.destSource d src := by
  simp only [State.destSource, State.destination, State.getValue, State.readReg, hcfg, hregs]

theorem State.dataAddress_congr {s s' : State} (hcfg : s'.cfg = s.cfg) (hregs : s'.regs = s.regs) (v m : Token) :
    s'.dataAddress v m = s.dataAddress v m := by
  simp only [State.dataAddress, State.getValue, State.readReg, hcfg, hregs]

/-- Two states that hold the same operands, and in which every way an instruction can end agrees after `f` and `f'`. -/
structure EndsAlike (f f' : State → State) (s s' : State) : Prop where
  cfg : s'.cfg = s.cfg
  regs : s'.regs = s.regs
  mem : s'.mem = s.mem
  raise : ∀ e, f' (s'.raise e) = f (s.raise e)
  writeReg : ∀ k r, f' (s'.writeReg k r).returnOk = f (s.writeReg k r).returnOk
  commitResult : ∀ k r fl, f' (s'.commitResult k r fl).returnOk = f (s.commitResult k r fl).returnOk
  withResult : ∀ k w r, f' (s'.commitResult k r (s'.flags.withResult w r)).returnOk =
    f (s.commitResult k r (s.flags.withResult w r)).returnOk
  writeCell : ∀ a x, f' (s'.writeCell a x).returnOk = f (s.writeCell a x).returnOk

theorem EndsAlike.complete_bind {α : Type} {f f' : State → State} {s s' : State} (h : EndsAlike f f' s s')
    {x x' : Except ExecutionError α} {k k' : α → Except ExecutionError State} (hx : x' = x)
    (hk : ∀ o, mapNext f' (s'.complete (k' o)) = mapNext f (s.complete (k o))) :
    mapNext f' (s'.complete (x'.bind k')) = mapNext f (s.complete (x.bind k)) := by
  subst hx
  cases x' with
  | error e => exact congrArg Host.Outcome.next (h.raise e)
  | ok o => exact hk o

/-- An instruction reads the configuration, the registers and memory, and ends in one of the ways listed. -/
theorem EndsAlike.exec {f f' : State → State} {s s' : State} (h : EndsAlike f f' s s') (i : Instr) :
    mapNext f' (exec i s') = mapNext f (exec i s) := by
  have hds := State.destSource_congr h.cfg h.regs
  have hbounds : ∀ a, s'.inBounds a = s.inBounds a := fun a => by rw [State.inBounds, State.inBounds, h.cfg]
  have hcommit := fun k r fl => congrArg (Host.Outcome.next (φ := Fault) (ρ := Refusal)) (h.commitResult k r fl)
  have hresult := fun k w r => congrArg (Host.Outcome.next (φ := Fault) (ρ := Refusal)) (h.withResult k w r)
  cases i with
  | mov d src => exact h.complete_bind (hds d src) fun o => congrArg Host.Outcome.next (h.writeReg o.dest o.b)
  | add d src | sub d src =>
    refine h.complete_bind (hds d src) fun o => ?_
    simp only [h.cfg]
    exact hcommit o.dest _ _
  | mul d src | and d src | or d src | xor d src | shl d src | shr d src =>
    refine h.complete_bind (hds d src) fun o => ?_
    simp only [h.cfg]
    exact hresult o.dest _ _
  | not d =>
    have hd : s'.destination d = s.destination d := by rw [State.destination, State.destination, h.cfg]
    refine h.complete_bind hd fun k => ?_
    simp only [h.cfg, State.readReg, h.regs]
    exact hresult k _ _
  | div d src =>
    refine h.complete_bind (hds d src) fun o => ?_
    simp only [h.cfg]
    split
    · exact congrArg Host.Outcome.next (h.raise _)
    · exact hresult o.dest _ _
  | load d m =>
    refine h.complete_bind (hds d m) fun o => ?_
    simp only [hbounds, State.readCell, h.mem]
    split
    · exact congrArg Host.Outcome.next (h.writeReg o.dest _)
    · exact congrArg Host.Outcome.next (h.raise _)
  | store v m =>
    refine h.complete_bind (State.dataAddress_congr h.cfg h.regs v m) fun o => ?_
    simp only [hbounds]
    split
    · exact congrArg Host.Outcome.next (h.writeCell o.address o.data)
    · exact congrArg Host.Outcome.next (h.raise _)

/-! ### No instruction reads a flag -/

/-- Settles O54: the flags are no operand, and every end of an instruction agrees once the flags are forgotten. -/
theorem noInstructionReadsAFlag : Obligations.NoInstructionReadsAFlag := by
  intro i s f
  have halike : EndsAlike (·.writeFlags Flags.cleared) (·.writeFlags Flags.cleared) s (s.writeFlags f) :=
    ⟨rfl, rfl, rfl, fun _ => rfl, fun _ _ => rfl, fun _ _ _ => rfl, fun _ _ _ => rfl, fun _ _ => rfl⟩
  exact halike.exec i

/-! ### No transaction reads the last reply or the later requests -/

/-- Replace the pending requests. -/
def State.setPending (s : State) (rs : List Request) : State := { s with pending := rs }

/-- Replace the caller's side: the pending requests and the last reply. -/
def State.setCaller (s : State) (rs : List Request) (r : Option Reply) : State :=
  { s with pending := rs, reply := r }

theorem mapNext_id (o : Host.Outcome State Fault Refusal) : mapNext id o = o := by cases o <;> rfl

/-- The caller's side is no operand, and the reply of an instruction, which it always gives, hides the one before. -/
theorem exec_setCaller (i : Instr) (s : State) (rs : List Request) (r : Option Reply) :
    exec i (s.setCaller rs r) = mapNext (·.setPending rs) (exec i s) := by
  have halike : EndsAlike (·.setPending rs) id s (s.setCaller rs r) :=
    ⟨rfl, rfl, rfl, fun _ => rfl, fun _ _ => rfl, fun _ _ _ => rfl, fun _ _ _ => rfl, fun _ _ => rfl⟩
  exact (mapNext_id _).symm.trans (halike.exec i)

theorem serve_setCaller (req : Request) (s : State) (rs : List Request) (r : Option Reply) :
    serve req (s.setCaller rs r) = mapNext (·.setPending rs) (serve req s) := by
  cases req with
  | dump => rfl
  | execute line =>
    simp only [serve, executeLine]
    cases decode line with
    | error e => rfl
    | ok i => exact exec_setCaller i s rs r

/-- Settles O55: a step serves the first request from a state that differs in the caller's side only; a configuration
that is refused is refused in both. -/
theorem nothingIsRememberedOfEarlierResults : Obligations.NothingIsRememberedOfEarlierResults := by
  intro s req rest rest' r hp
  by_cases hw : s.cfg.wf = true
  · rw [step_eq_serve hw hp, step_eq_serve (s := { s with pending := req :: rest', reply := r }) hw rfl]
    exact serve_setCaller req { s with pending := rest } rest' r
  · rw [step, step, if_neg hw, if_neg hw]
    rfl

end Sys2Proof.Machine
end

section
/-! PROOF. The flags and the ALU (40_alu_primitives.md R127 to R132): results and sign bits as comparisons of magnitudes,
which linear arithmetic then relates. -/

namespace Sys2Proof.Machine

/-! ### Results of magnitudes without masking -/

theorem Alu.add_fst_eq_ite {a b w : Nat} (ha : a < 2 ^ w) (hb : b < 2 ^ w) :
    (Alu.add a b w).1 = if a + b < 2 ^ w then a + b else a + b - 2 ^ w := by
  rw [Alu.add_fst]
  split
  next h => exact Nat.mod_eq_of_lt h
  next h => rw [Nat.mod_eq_sub_mod (Nat.not_lt.mp h), Nat.mod_eq_of_lt (by omega)]

theorem Alu.sub_fst_eq_ite {a b w : Nat} (ha : a < 2 ^ w) (hb : b < 2 ^ w) :
    (Alu.sub a b w).1 = if b ≤ a then a - b else a + 2 ^ w - b := by
  split
  next h => exact Alu.sub_fst_of_le h ha
  next h => exact Alu.sub_fst_of_lt (not_le.mp h) hb

/-! ### Flags as comparisons -/

theorem zeroOf_iff {r : Nat} : zeroOf r = true ↔ r = 0 := beq_iff_eq

theorem signOf_iff {w r : Nat} (hw : 1 ≤ w) (hr : r < 2 ^ w) : signOf w r = true ↔ 2 ^ (w - 1) ≤ r := by
  rw [signOf, signBit_eq hw hr, decide_eq_true_iff]

theorem overflowAdd_iff {w a b r : Nat} (hw : 1 ≤ w) (ha : a < 2 ^ w) (hb : b < 2 ^ w) (hr : r < 2 ^ w) :
    overflowAdd w a b r = true ↔
      (2 ^ (w - 1) ≤ a ↔ 2 ^ (w - 1) ≤ b) ∧ ¬ (2 ^ (w - 1) ≤ r ↔ 2 ^ (w - 1) ≤ a) := by
  simp [overflowAdd, signBit_eq hw ha, signBit_eq hw hb, signBit_eq hw hr]

theorem overflowSub_iff {w a b r : Nat} (hw : 1 ≤ w) (ha : a < 2 ^ w) (hb : b < 2 ^ w) (hr : r < 2 ^ w) :
    overflowSub w a b r = true ↔
      ¬ (2 ^ (w - 1) ≤ a ↔ 2 ^ (w - 1) ≤ b) ∧ ¬ (2 ^ (w - 1) ≤ r ↔ 2 ^ (w - 1) ≤ a) := by
  simp [overflowSub, signBit_eq hw ha, signBit_eq hw hb, signBit_eq hw hr]

/-! ### OVERFLOW -/

/-- `OVERFLOW` after `ADD` says that the exact signed sum does not fit (R127). -/
theorem afterAdd_overflow_iff {w a b : Nat} (hw : 1 ≤ w) (ha : a < 2 ^ w) (hb : b < 2 ^ w) :
    (Flags.afterAdd w a b).overflow = true ↔
      Alu.toSigned a w + Alu.toSigned b w < -(2 : Int) ^ (w - 1) ∨
      (2 : Int) ^ (w - 1) ≤ Alu.toSigned a w + Alu.toSigned b w := by
  have hdouble := Nat.two_pow_pred_mul_two hw
  have hcast : ((2 ^ (w - 1) : Nat) : Int) = (2 : Int) ^ (w - 1) := Nat.cast_pow 2 (w - 1)
  rw [Flags.afterAdd_overflow, overflowAdd_iff hw ha hb (Alu.add_lt a b w), Alu.add_fst_eq_ite ha hb,
    Alu.toSigned_eq hw ha, Alu.toSigned_eq hw hb, ← hcast]
  split_ifs <;> omega

/-- `OVERFLOW` after `SUB` says that the exact signed difference does not fit (R127). -/
theorem afterSub_overflow_iff {w a b : Nat} (hw : 1 ≤ w) (ha : a < 2 ^ w) (hb : b < 2 ^ w) :
    (Flags.afterSub w a b).overflow = true ↔
      Alu.toSigned a w - Alu.toSigned b w < -(2 : Int) ^ (w - 1) ∨
      (2 : Int) ^ (w - 1) ≤ Alu.toSigned a w - Alu.toSigned b w := by
  have hdouble := Nat.two_pow_pred_mul_two hw
  have hcast : ((2 ^ (w - 1) : Nat) : Int) = (2 : Int) ^ (w - 1) := Nat.cast_pow 2 (w - 1)
  rw [Flags.afterSub_overflow, overflowSub_iff hw ha hb (Alu.sub_lt a b w), Alu.sub_fst_eq_ite ha hb,
    Alu.toSigned_eq hw ha, Alu.toSigned_eq hw hb, ← hcast]
  split_ifs <;> omega

/-- Settles O39. -/
theorem overflowIsSignedOutOfRange : Obligations.OverflowIsSignedOutOfRange :=
  fun _ _ _ hw ha hb => ⟨afterAdd_overflow_iff hw ha hb, afterSub_overflow_iff hw ha hb⟩

/-! ### Relations between the flags -/

/-- ZERO and SIGN of one result are never both set, and at width 1 exactly one of them is (R129 (a), (e)). -/
def ZeroSignExclude (w : Nat) (f : Flags) : Prop :=
  ¬ (f.zero = true ∧ f.sign = true) ∧ (w = 1 → f.sign = !f.zero)

theorem zeroSignExclude_of_result {w r : Nat} {f : Flags} (hw : 1 ≤ w) (hr : r < 2 ^ w) (hzero : f.zero = zeroOf r)
    (hsign : f.sign = signOf w r) : ZeroSignExclude w f := by
  have hpos := Nat.two_pow_pos (w - 1)
  rw [ZeroSignExclude, hzero, hsign]
  refine ⟨?_, ?_⟩
  · rw [zeroOf_iff, signOf_iff hw hr]
    omega
  · rintro rfl
    interval_cases r <;> rfl

theorem afterAdd_carry_zero_iff {w a b : Nat} (ha : a < 2 ^ w) (hb : b < 2 ^ w) :
    (Flags.afterAdd w a b).carry = true ∧ (Flags.afterAdd w a b).zero = true ↔ a + b = 2 ^ w := by
  rw [Flags.afterAdd_carry, Flags.afterAdd_zero, zeroOf_iff, Alu.add_snd, decide_eq_true_iff, Alu.add_fst_eq_ite ha hb]
  split <;> omega

theorem afterSub_zero_iff {w a b : Nat} (ha : a < 2 ^ w) (hb : b < 2 ^ w) :
    (Flags.afterSub w a b).zero = true ↔ a = b := by
  rw [Flags.afterSub_zero, zeroOf_iff, Alu.sub_fst_eq_ite ha hb]
  split <;> omega

theorem afterSub_carry_iff {w a b : Nat} : (Flags.afterSub w a b).carry = true ↔ a < b := by
  rw [Flags.afterSub_carry, Alu.sub_snd, decide_eq_true_iff]

/-- Operands that are equal have no borrow and the same sign. -/
theorem afterSub_same (w a : Nat) : (Flags.afterSub w a a).carry = false ∧ (Flags.afterSub w a a).overflow = false := by
  simp [overflowSub]

/-- SIGN differs from OVERFLOW after `SUB` exactly for a signed less-than (R129 (d)). -/
theorem afterSub_sign_xor_overflow_iff {w a b : Nat} (hw : 1 ≤ w) (ha : a < 2 ^ w) (hb : b < 2 ^ w) :
    ((Flags.afterSub w a b).sign ^^ (Flags.afterSub w a b).overflow) = true ↔
      Alu.toSigned a w < Alu.toSigned b w := by
  have hdouble := Nat.two_pow_pred_mul_two hw
  have hr := Alu.sub_lt a b w
  rw [Flags.afterSub_sign, Flags.afterSub_overflow, Bool.xor_iff_ne, ne_eq, Bool.eq_iff_iff, signOf_iff hw hr,
    overflowSub_iff hw ha hb hr, Alu.sub_fst_eq_ite ha hb, Alu.toSigned_eq hw ha, Alu.toSigned_eq hw hb]
  split_ifs <;> omega

theorem State.Inv.one_le_width {s : State} (h : s.Inv) : 1 ≤ s.cfg.width :=
  of_decide_eq_true (Bool.and_eq_true_iff.mp h.config).1

/-- An ALU instruction that returns `Ok` has committed a result, a magnitude, with its ZERO and SIGN. -/
theorem exec_zeroSignExclude {i : Instr} {s t : State} (hinv : s.Inv) (hi : i.writesZeroSign = true)
    (h : exec i s = .next t) (hok : t.reply = some .ok) : ZeroSignExclude s.cfg.width t.flags := by
  have hw := hinv.one_le_width
  rcases exec_next_cases h with ⟨e, rfl⟩ | ⟨k, r, f, ⟨_, _, ⟨hflags, _⟩, hr⟩, rfl⟩ | ⟨a, x, ⟨v, m, rfl, _⟩, rfl⟩
  · cases hok
  · obtain ⟨hzero, hsign⟩ := hflags hi
    exact zeroSignExclude_of_result hw (hr hinv.regRange hinv.memRange) hzero hsign
  · cases hi

/-- Settles O40. -/
theorem flagRelations : Obligations.FlagRelations := by
  refine ⟨fun w a b hw ha hb => ⟨fun f r hr => zeroSignExclude_of_result hw hr rfl rfl,
    zeroSignExclude_of_result hw (Alu.add_lt a b w) rfl rfl, zeroSignExclude_of_result hw (Alu.sub_lt a b w) rfl rfl,
    afterAdd_carry_zero_iff ha hb, afterSub_zero_iff ha hb, fun hzero => ?_, afterSub_carry_iff,
    afterSub_sign_xor_overflow_iff hw ha hb⟩, fun _ _ _ => exec_zeroSignExclude⟩
  obtain rfl := (afterSub_zero_iff ha hb).mp hzero
  exact afterSub_same w a

/-! ### The negation idiom -/

theorem Alu.not_add_one {a w : Nat} (ha : a < 2 ^ w) : Alu.not a w + 1 = 2 ^ w - a := by
  rw [Alu.not, Alu.mask]
  omega

/-- `NOT` then `ADD 1` is negation, up to the modulus that masking forgets (R131). -/
theorem Alu.add_not_one {a w : Nat} (ha : a < 2 ^ w) :
    (Alu.add (Alu.not a w) 1 w).1 = Alu.toUnsignedMasked (-(a : Int)) w := by
  have hnot := Alu.not_add_one ha
  have hsum : -(a : Int) = ((Alu.not a w : Nat) : Int) + (1 : Nat) - ((2 ^ w : Nat) : Int) := by omega
  rw [hsum, Alu.toUnsignedMasked_sub_modulus, Alu.add]

theorem afterAdd_not_zero_one (w : Nat) :
    (Flags.afterAdd w (Alu.not 0 w) 1).carry = true ∧ (Flags.afterAdd w (Alu.not 0 w) 1).zero = true := by
  have hnot := Alu.not_add_one (Nat.two_pow_pos w)
  rw [Flags.afterAdd_carry, Flags.afterAdd_zero, zeroOf_iff, Alu.add_snd, Alu.add_fst, hnot, Nat.sub_zero,
    decide_eq_true_iff]
  exact ⟨le_rfl, Nat.mod_self _⟩

/-- The most negative value is its own negation. -/
theorem Alu.add_not_one_min {w : Nat} (hw : 1 ≤ w) :
    (Alu.add (Alu.not (2 ^ (w - 1)) w) 1 w).1 = 2 ^ (w - 1) := by
  have hdouble := Nat.two_pow_pred_mul_two hw
  have hpos := Nat.two_pow_pos (w - 1)
  rw [Alu.add_fst, Alu.not_add_one (by omega), Nat.mod_eq_of_lt (by omega)]
  omega

/-- Negating the most negative value overflows, but at width 1, where 1 itself is negative. -/
theorem afterAdd_not_min_one_overflow_iff {w : Nat} (hw : 1 ≤ w) :
    (Flags.afterAdd w (Alu.not (2 ^ (w - 1)) w) 1).overflow = true ↔ 2 ≤ w := by
  have hdouble := Nat.two_pow_pred_mul_two hw
  have hpos := Nat.two_pow_pos (w - 1)
  have hnot : Alu.not (2 ^ (w - 1)) w + 1 = 2 ^ w - 2 ^ (w - 1) := Alu.not_add_one (by omega)
  have hwidth : 1 < 2 ^ (w - 1) ↔ 0 < w - 1 := Nat.one_lt_two_pow_iff.trans Nat.pos_iff_ne_zero.symm
  rw [Flags.afterAdd_overflow, overflowAdd_iff hw (Alu.not_lt _ w) (by omega) (Alu.add_lt _ _ w),
    Alu.add_not_one_min hw]
  omega

/-- Settles O42. -/
theorem negationIdiom : Obligations.NegationIdiom := by
  intro w a hw ha
  refine ⟨Alu.add_not_one ha, ?_, ?_⟩
  · rintro rfl
    exact afterAdd_not_zero_one w
  · rintro rfl
    exact ⟨Alu.add_not_one_min hw, afterAdd_not_min_one_overflow_iff hw⟩

/-! ### Identities -/

theorem Alu.add_comm (a b w : Nat) : Alu.add a b w = Alu.add b a w := by
  rw [Alu.add, Alu.add, Int.add_comm, Nat.add_comm]

theorem Alu.mul_comm (a b w : Nat) : Alu.mul a b w = Alu.mul b a w := by
  rw [Alu.mul, Alu.mul, Int.mul_comm]

theorem Alu.add_zero {a w : Nat} (ha : a < 2 ^ w) : Alu.add a 0 w = (a, false) := by
  refine Prod.ext ?_ ?_
  · rw [Alu.add_fst, Nat.add_zero, Nat.mod_eq_of_lt ha]
  · rw [Alu.add_snd, Nat.add_zero, decide_eq_false (not_le.mpr ha)]

theorem Alu.sub_zero {a w : Nat} (ha : a < 2 ^ w) : Alu.sub a 0 w = (a, false) :=
  Prod.ext (Alu.sub_fst_of_le a.zero_le ha) rfl

theorem Alu.and_mask {a w : Nat} (ha : a < 2 ^ w) : Alu.and a (Alu.mask w) = a :=
  Nat.and_two_pow_sub_one_of_lt_two_pow ha

/-- The mask has the `w` low bits, so XOR with it inverts those and leaves the others, which a magnitude has clear. -/
theorem Alu.xor_mask {a w : Nat} (ha : a < 2 ^ w) : Alu.xor a (Alu.mask w) = Alu.not a w := by
  refine Nat.eq_of_testBit_eq fun j => ?_
  rw [Alu.testBit_not ha, Alu.xor, Alu.mask, Nat.testBit_xor, Nat.testBit_two_pow_sub_one]
  by_cases hj : j < w
  · simp [hj]
  · have hhigh : a.testBit j = false :=
      Nat.testBit_lt_two_pow (ha.trans_le (Nat.pow_le_pow_right two_pos (Nat.not_lt.mp hj)))
    simp [hj, hhigh]

theorem Alu.not_not {a w : Nat} (ha : a < 2 ^ w) : Alu.not (Alu.not a w) w = a := by
  rw [Alu.not, Alu.not, Alu.mask]
  omega

theorem Alu.shiftLeft_one (a w : Nat) : Alu.shiftLeft a 1 w = (Alu.add a a w).1 := by
  rw [Alu.shiftLeft_eq_mul_mod, Alu.add_fst, pow_one, Nat.mul_two]

/-- Settles O43. -/
theorem aluIdentities : Obligations.AluIdentities :=
  fun w a b _ ha _ => ⟨Alu.add_comm a b w, Alu.mul_comm a b w, Alu.add_zero ha, Alu.sub_zero ha, Alu.and_mask ha,
    Alu.xor_mask ha, Alu.not_not ha, Alu.shiftLeft_one a w, fun k _ => Alu.shiftRight_eq_div ha k⟩

end Sys2Proof.Machine
end

section
/-! PROOF. The names and numerals of a dump (10_state.md R45, R47). -/

namespace Sys2Proof.Machine

/-! ### The decimal numeral -/

theorem digitChar_of_lt_ten {d : Nat} (h : d < 10) : digitChar d = BitVec.ofNat 8 (48 + d) := if_pos h

/-- With fuel for all its digits, a positive number is written with exactly them. -/
theorem digitsOnto_eq {fuel n : Nat} (hpos : n ≠ 0) (hfuel : n < 10 ^ fuel) (acc : Text) :
    digitsOnto 10 fuel n acc = digitChars (Nat.digits 10 n).reverse ++ acc := by
  induction fuel generalizing n acc with
  | zero => omega
  | succ fuel ih =>
    have hdigits : Nat.digits 10 n = n % 10 :: Nat.digits 10 (n / 10) :=
      Nat.digits_def' (by decide) (Nat.pos_of_ne_zero hpos)
    have hlast : digitChar (n % 10) = BitVec.ofNat 8 (48 + n % 10) :=
      digitChar_of_lt_ten (Nat.mod_lt n (by decide))
    rw [digitsOnto, hdigits]
    split
    next h0 => simp [h0, hlast, digitChars]
    next h0 =>
      rw [ih h0 (by omega)]
      simp [hlast, digitChars]

/-- The decimal rendering is the shortest numeral: a number has no more decimal digits than bits. -/
theorem decimalText_eq (n : Nat) : decimalText n = shortestDecimal n := by
  rw [decimalText, shortestDecimal]
  split
  next h0 =>
    rw [h0]
    rfl
  next hpos =>
    have hfuel : n < 10 ^ (n.log2 + 1) := Nat.lt_log2_self.trans_le (Nat.pow_le_pow_left (by decide) _)
    rw [digitsOnto_eq hpos hfuel, List.append_nil]

/-! ### The hex numeral -/

/-- A fixed-length numeral spells the number below `base ^ k` in digits of the base. -/
theorem exists_digits_of_fixedDigits {base : Nat} (hbase : 0 < base) (k n : Nat) :
    ∃ ds : List Nat, fixedDigits base k n = ds.map digitChar ∧ (∀ d ∈ ds, d < base) ∧
      Nat.ofDigits base ds.reverse = n % base ^ k := by
  induction k generalizing n with
  | zero => exact ⟨[], rfl, by simp, by simp [Nat.mod_one]⟩
  | succ k ih =>
    obtain ⟨ds, htext, hlt, hvalue⟩ := ih (n / base)
    refine ⟨ds ++ [n % base], by simp [fixedDigits, htext], ?_, ?_⟩
    · intro d hd
      rcases List.mem_append.mp hd with hd | hd
      · exact hlt d hd
      · rw [List.mem_singleton.mp hd]
        exact Nat.mod_lt n hbase
    · rw [List.reverse_append, List.reverse_singleton, List.singleton_append, Nat.ofDigits_cons, hvalue,
        Nat.pow_succ', Nat.mod_mul]

/-- The character of a hex digit has its value and is no lower-case letter. -/
theorem digitChar_hex {d : Nat} (h : d < 16) : IsHexDigit (digitChar d) d ∧ (digitChar d).toNat < 97 := by
  interval_cases d <;> simp [digitChar, IsHexDigit]

/-- `ceil(w / 4)` hex digits hold `w` bits. -/
theorem two_pow_le_sixteen_pow (w : Nat) : 2 ^ w ≤ 16 ^ ((w + 3) / 4) := by
  have h16 : (16 : Nat) = 2 ^ 4 := rfl
  rw [h16, ← Nat.pow_mul]
  exact Nat.pow_le_pow_right two_pos (by omega)

theorem exists_digits_of_hexText {w m : Nat} (hm : m < 2 ^ w) :
    ∃ ds : List Nat, List.Forall₂ IsHexDigit (hexText w m) ds ∧ (∀ c ∈ hexText w m, c.toNat < 97) ∧
      Nat.ofDigits 16 ds.reverse = m := by
  obtain ⟨ds, htext, hlt, hvalue⟩ := exists_digits_of_fixedDigits (base := 16) (by decide) ((w + 3) / 4) m
  rw [hexText, htext]
  refine ⟨ds, ?_, List.forall_mem_map.mpr fun d hd => (digitChar_hex (hlt d hd)).2, ?_⟩
  · rw [List.forall₂_map_left_iff, List.forall₂_same]
    exact fun d hd => (digitChar_hex (hlt d hd)).1
  · rw [hvalue, Nat.mod_eq_of_lt (hm.trans_le (two_pow_le_sixteen_pow w))]

/-- Settles O59: entry `k` is the view of register `k + 1`, whose renderings are those numerals. -/
theorem dumpNamesAndNumerals : Obligations.DumpNamesAndNumerals := by
  intro s k hk hm
  obtain ⟨ds, hspell, hupper, hvalue⟩ := exists_digits_of_hexText hm
  have hname : registerName (k + 1) = keyName (k + 1) := by rw [registerName, keyName, decimalText_eq]
  exact ⟨s.view (k + 1), ds, s.snapshot_registers_getElem? hk, hname, rfl, decimalText_eq _, fixedDigits_length 16 _ _,
    hspell, hupper, hvalue⟩

end Sys2Proof.Machine
end
